-- ==== Sys2Proof/Word.lean ====
section
/-! DEFINITION. The word types: little-endian bytes and 64-bit addresses and registers (R9, R11). -/

namespace Sys2Proof

/-- One byte of memory, a packet or a record (R9). -/
abbrev Byte := BitVec 8

/-- A scalar register, a register of the register space, or an address (R9, R52, R502). -/
abbrev Word := BitVec 64

end Sys2Proof
end

