-- ==== Sys2Proof/Syntax.lean ====
section
/-! DEFINITION. The commands the part takes: one constructor per row of spec/opcode_table.json, and the types of
their operands. The rows of the Rotuavo instructions carry the core that issues the instruction and bits [47:0] of
its word (R190, R191); the constructor stands for bits [63:48]. The other rows are events and register acts. -/

namespace Sys2Proof

/-- A core, 0 to 15 (R14). -/
abbrev Core := Fin 16
/-- A cluster, 0 to 3 (R14). -/
abbrev Cluster := Fin 4
/-- An Insole stack, 0 to 23 (R14). -/
abbrev StackId := Fin 24
/-- A fabric port (R286) or an Ethernet port (R383), 0 to 7. -/
abbrev Port := Fin 8
/-- A hart of the control complex, 0 to 23 (R416). -/
abbrev Hart := Fin 24
/-- A communicator, 0 to 255 (R213). -/
abbrev Comm := BitVec 8
/-- A packed coordinate (R300). -/
abbrev Coord := BitVec 16
/-- A RoCEv2 connection, 0 to 4,095 (R387). -/
abbrev Conn := Fin 4096

/-- The five engine queues of a core (R57). -/
inductive QueueId where
  | mx | mv | vx | st | cl
deriving DecidableEq, Repr

/-- What the error-correcting code finds on an access: nothing, an error it corrects, or one it does not, in the first word
read; or errors in the words that hold the bytes at given addresses, true for one it does not correct, where the access
reads them, a masked write's own read among them (R235, R258, R518); or the wrong symbols, of 80, of the stack lines that
hold the bytes at given addresses, of which the code corrects what R259 says. The error itself is a physical event, so the
event that reads brings it. -/
inductive Ecc where
  | clean | corrected | uncorrectable
  | words (xs : List (Nat × Bool))
  | symbols (xs : List (Nat × List (Fin 80)))
deriving DecidableEq, Repr

/-- A stack that acts, and what the code finds in what it reads (R255, R256, R267, R494). -/
structure StackAct where
  k : StackId
  ecc : Ecc
deriving DecidableEq, Repr

/-- A stream register whose landed block moves into its ring, and what the code finds in the words read for it (R158, R235,
R236, R518). -/
structure SlotMove where
  t : Fin 16
  ecc : Ecc
deriving DecidableEq, Repr

/-- A port whose link met too many uncorrectable code words, and how many of them no packet overlapped, so that they are not
yet counted (R290, R327). -/
structure LinkErrors where
  p : Port
  ue : Nat
deriving DecidableEq, Repr

/-- A frame that an Ethernet port receives, without its FCS (R384, R385). -/
structure PortFrame where
  p : Port
  frame : List Byte
deriving DecidableEq, Repr

/-- A wrong sum that a matrix, Shank or vector instruction forms (R107, R109, R122, R142): the row, the output column or
element, by how many units of its exact integer it is off, by how many when it is formed again, and for a chain the stage
(10 the reduction tree). The check sees it where the amount is no multiple of 7 (R108). -/
structure Mismatch where
  row : Nat
  col : Nat
  err : Int
  again : Int
  stage : Nat
deriving DecidableEq, Repr

/-- Whether the repeat is off too, by an amount the check sees. -/
def Mismatch.persists (m : Mismatch) : Bool := m.again % 7 != 0

/-- The hardware errors an engine instruction will meet: wrong sums, whether its descriptor in scratch fails
its code (R102, R139, R518), the rows and columns at which its reads of the heel meet an uncorrectable error, or one that
the code corrects (R101), the beats that meet a table entry with bad parity (R142), and what the code finds in words of the
core's scratch as the instruction first reads them from its rings (R518). Empty on sound hardware. slow tells that the
instruction makes its heel adds, or its beats, only when its completion is due: how far an engine has come when something
else happens the spec does not say (R58, R93, R124). -/
structure HwFault where
  residue : List Mismatch
  descEcc : Ecc
  heel : List (Nat × Nat)
  table : List Nat
  heelFixed : List (Nat × Nat) := []
  ring : List (Nat × Ecc) := []
  slow : Bool := false
deriving DecidableEq, Repr

/-- Sound hardware. -/
def HwFault.sound : HwFault := { residue := [], descEcc := .clean, heel := [], table := [] }

/-- A fabric packet (R296): the header fields, the payload, the CRC that came with it, whether every code word it overlaps is
good (R287, R301), and how many that could not be corrected it is the first to overlap (R327). -/
structure Packet where
  arg : BitVec 48
  ctx : BitVec 16
  len : BitVec 12
  uepoch : BitVec 4
  src : Coord
  dst : Coord
  dunit : BitVec 6
  resv : Bool
  echo : Bool
  mark : Bool
  dl : Bool
  cls : BitVec 2
  kind : BitVec 4
  payload : List Byte
  good : Bool
  crc : BitVec 32 := 0
  ue : Nat := 0
deriving DecidableEq, Repr

/-- What a collective waits for or sends (R336): a CHUNK of a phase axis, direction, step and index, or, with ctrl
set, the CTRL of one peer of the phase. gather tells a gathering phase of CL.AR from a reducing one. -/
structure ChunkKey where
  ctrl : Bool
  gather : Bool
  ph : Bool
  dir : Bool
  step : Nat
  idx : Nat
  peer : Nat
deriving DecidableEq, Repr

/-- The traffic classes of the Welt, in code order 0 to 6 (R226). -/
inductive WeltClass where
  | req | rsp | fwd | col | ing | mem | ctl
deriving DecidableEq, Repr

/-- One plane of a decoded picture: samples in raster order (R399). -/
structure Plane where
  w : Nat
  h : Nat
  x : List Nat
deriving DecidableEq, Repr

/-- A block of a picture that a bitstream error keeps from being decoded: its place and size in luma samples (R397). -/
structure LostBlock where
  x : Nat
  y : Nat
  w : Nat
  h : Nat
deriving DecidableEq, Repr

/-- One decoded picture: its planes, presentation time, and the blocks that could not be decoded (R397, R400). -/
structure Picture where
  luma : Plane
  cb : Plane
  cr : Plane
  pts : Nat
  lost : List LostBlock
deriving DecidableEq, Repr

/-- The codecs of R394. -/
inductive Codec where
  | mpeg2 | avc | hevc | av1
deriving DecidableEq, Repr

/-- The profiles of R394, and every other. -/
inductive VideoProfile where
  | main | high | high10 | main10 | other
deriving DecidableEq, Repr

/-- What a video stream's headers say (R394): codec, profile, level (10 times its number; for MPEG-2 1 to 4 for Low, Main,
High 1440 and High), whether its chroma is 4:2:0, the picture size in luma pixels, the bit depth, and whether it is coded
interlaced. -/
structure VideoStream where
  codec : Codec
  profile : VideoProfile
  level : Nat
  yuv420 : Bool
  w : Nat
  h : Nat
  bits : Nat
  interlaced : Bool
deriving DecidableEq, Repr

/-- What a decode engine delivers for one segment (R394 to R397, R401): the sample's offset in the batch being filled, the
video stream's headers, the pictures decoded from the first random access point on in output order, the stream's colour
description, and the caption cues. The decoding itself belongs to the video standards that R394 names. -/
structure Decoded where
  slot : Nat
  stream : VideoStream
  colour : Option Nat
  fullRange : Option Bool
  pictures : List Picture
  cues : List (Nat × List Byte)
deriving DecidableEq, Repr

/-- What the control complex does at an address: a hart's load, store, CBO.CLEAN, CBO.FLUSH or CBO.INVAL of its line, or FENCE,
with O among its successors or not; or what its caches do of themselves: a line is evicted, or the oldest write-back that can
be is acknowledged (R416, R417, R420, R421). -/
inductive HartOp where
  | load | store | clean | flush | inval
  | fence (succO : Bool)
  | evict | ack
deriving DecidableEq, Repr

/-- An access of a hart (R417): address, bytes, what is done, store data, and what the code finds in what is read. -/
structure Access where
  addr : Word
  bytes : Nat
  op : HartOp
  data : Word
  ecc : Ecc
deriving DecidableEq, Repr

/-- What start-up meets on the board (R471, R510, R514): the 12 V and 1.2 V rails and RREF in range, the V12 supply
and the EEPROM answering, and the stacks whose training fails. -/
structure StartEnv where
  rails : Bool
  rref : Bool
  supply : Bool
  eeprom : Bool
  failed : List StackId
deriving DecidableEq, Repr

/-- One sample of Cobbler's sensors (R452): the 64 die diodes and the hottest die of each stack (°C), the deviation of the 40
voltage monitors (tenths of a percent), 12 V input power (W), and for each regulator stage whether a warning bit and whether a
fault bit is set. -/
structure Sensors where
  diodes : List Nat
  stack : List Nat
  volts : List Nat
  power : Nat
  stages : List (Bool × Bool)
deriving DecidableEq, Repr

/-- The monitored rails (R509, R510). -/
inductive Rail where
  | v12 | v12a
deriving DecidableEq, Repr

/-- Who sends a management request: one of four sessions (R453) or the control complex mailbox (R457). -/
inductive Client where
  | session (i : Fin 4)
  | mailbox
deriving DecidableEq, Repr

/-- The resettable units (R470, R485). -/
inductive ResetUnit where
  | core (n : Core)
  | cluster (c : Cluster)
  | stack (k : StackId)
  | link (p : Port)
  | eth (p : Port)
  | ctx
  | cobbler
  | die
deriving DecidableEq, Repr

/-- The built-in tests (R495). -/
inductive SelfTest where
  | fuses | sensors
  | coreScan (n : Core) | coreMarch (n : Core)
  | weltMarch
  | stackMarch (k : StackId)
  | laneLoop (p : Port) | eyeScan (p : Port)
  | ethLoop (p : Port)
deriving DecidableEq, Repr

/-- The commands: one constructor per row of spec/opcode_table.json. -/
inductive Instr where
  /-- S_ADD (R195). Scalar add: sd := sa + sb modulo 2^64. -/
  | sAdd (n : Core) (w : BitVec 48)
  /-- S_SUB (R195). Scalar subtract: sd := sa - sb. -/
  | sSub (n : Core) (w : BitVec 48)
  /-- S_MUL (R195). Scalar multiply: sd := low 64 bits of sa x sb. -/
  | sMul (n : Core) (w : BitVec 48)
  /-- S_AND (R195). Scalar bitwise AND of sa and sb. -/
  | sAnd (n : Core) (w : BitVec 48)
  /-- S_OR (R195). Scalar bitwise OR of sa and sb. -/
  | sOr (n : Core) (w : BitVec 48)
  /-- S_XOR (R195). Scalar bitwise XOR of sa and sb. -/
  | sXor (n : Core) (w : BitVec 48)
  /-- S_SHL (R195). Scalar shift left by sb mod 64. -/
  | sShl (n : Core) (w : BitVec 48)
  /-- S_SHR (R195). Scalar logical shift right by sb mod 64. -/
  | sShr (n : Core) (w : BitVec 48)
  /-- S_SAR (R195). Scalar arithmetic shift right by sb mod 64. -/
  | sSar (n : Core) (w : BitVec 48)
  /-- S_MIN (R195). Signed minimum of sa and sb. -/
  | sMin (n : Core) (w : BitVec 48)
  /-- S_MAX (R195). Signed maximum of sa and sb. -/
  | sMax (n : Core) (w : BitVec 48)
  /-- S_MINU (R195). Unsigned minimum of sa and sb. -/
  | sMinu (n : Core) (w : BitVec 48)
  /-- S_MAXU (R195). Unsigned maximum of sa and sb. -/
  | sMaxu (n : Core) (w : BitVec 48)
  /-- S_ADDI (R195). Scalar add of sign-extended imm32. -/
  | sAddi (n : Core) (w : BitVec 48)
  /-- S_LI (R195). Load sign-extended imm32 into sd. -/
  | sLi (n : Core) (w : BitVec 48)
  /-- S_LUI (R195). Place imm32 in the upper half of sd, keeping the low half of sa. -/
  | sLui (n : Core) (w : BitVec 48)
  /-- S_ANDI (R195). Scalar AND with zero-extended imm32. -/
  | sAndi (n : Core) (w : BitVec 48)
  /-- S_ORI (R195). Scalar OR with zero-extended imm32. -/
  | sOri (n : Core) (w : BitVec 48)
  /-- S_SHLI (R195). Scalar shift left by immediate. -/
  | sShli (n : Core) (w : BitVec 48)
  /-- S_SHRI (R195). Scalar logical shift right by immediate. -/
  | sShri (n : Core) (w : BitVec 48)
  /-- S_LDB (R196). Load 1 B from own scratch into sd, zero-extended, 4 cycles later. -/
  | sLdb (n : Core) (w : BitVec 48) (e : Ecc)
  /-- S_LDH (R196). Load 2 B from own scratch into sd. -/
  | sLdh (n : Core) (w : BitVec 48) (e : Ecc)
  /-- S_LDW (R196). Load 4 B from own scratch into sd. -/
  | sLdw (n : Core) (w : BitVec 48) (e : Ecc)
  /-- S_LDD (R196). Load 8 B from own scratch into sd. -/
  | sLdd (n : Core) (w : BitVec 48) (e : Ecc)
  /-- S_STB (R196). Store low 1 B of sd to own scratch. -/
  | sStb (n : Core) (w : BitVec 48)
  /-- S_STH (R196). Store low 2 B of sd to own scratch. -/
  | sSth (n : Core) (w : BitVec 48)
  /-- S_STW (R196). Store low 4 B of sd to own scratch. -/
  | sStw (n : Core) (w : BitVec 48)
  /-- S_STD (R196). Store 8 B of sd to own scratch. -/
  | sStd (n : Core) (w : BitVec 48)
  /-- P_CMP (R197). Predicate compare of two scalars under condition code. -/
  | pCmp (n : Core) (w : BitVec 48)
  /-- P_CMPI (R197). Predicate compare of a scalar with sign-extended imm16. -/
  | pCmpi (n : Core) (w : BitVec 48)
  /-- P_LOG (R197). Predicate logic on two predicates by truth table cc. -/
  | pLog (n : Core) (w : BitVec 48)
  /-- BR (R198). Predicated relative branch. -/
  | br (n : Core) (w : BitVec 48)
  /-- JR (R198). Predicated jump to the address in sa. -/
  | jr (n : Core) (w : BitVec 48)
  /-- CALL (R198). Predicated relative call saving the return address. -/
  | call (n : Core) (w : BitVec 48)
  /-- CALLR (R198). Predicated register call saving the return address. -/
  | callr (n : Core) (w : BitVec 48)
  /-- INSTRUCTION_LINE_FETCH (R53). A 64 B instruction line arrives in the instruction buffer and held issue resumes. -/
  | instructionLineFetch (n : Core) (line : BitVec 58) (e : Ecc)
  /-- ISSUE_QUEUE_PLACE_FREED (R57). A place frees in a full engine queue and the stalled instruction issues. -/
  | issueQueuePlaceFreed (n : Core)
  /-- SEM_WAIT (R63). Stop issue until a semaphore count reaches k. -/
  | semWait (n : Core) (w : BitVec 48)
  /-- SEM_WAIT_SATISFIED (R63). Semaphore count reaches k: subtract, write status to sd, reset status, resume issue. -/
  | semWaitSatisfied (n : Core)
  /-- SEM_SIG (R199). Add 1 to a semaphore count in the issue cycle. -/
  | semSig (n : Core) (w : BitVec 48)
  /-- SEM_PEEK (R199). Read a semaphore's count and status into sd. -/
  | semPeek (n : Core) (w : BitVec 48)
  /-- FENCE (R64). Stop issue until named queues complete. -/
  | fence (n : Core) (w : BitVec 48)
  /-- FENCE_COMPLETE (R64). Named queues have completed and issue resumes with their writes visible. -/
  | fenceComplete (n : Core)
  /-- LYR_OPEN (R78). Open a layer region once earlier work completes. -/
  | lyrOpen (n : Core) (w : BitVec 48)
  /-- LYR_OPEN_COMPLETE (R78). Region descriptor loaded, rings emptied and snapshot taken 20 cycles after earlier work completes. -/
  | lyrOpenComplete (n : Core) (e : Ecc)
  /-- LYR_CLOSE (R79). Hold issue until the region's work completes and form its local outcome. -/
  | lyrClose (n : Core) (w : BitVec 48)
  /-- LYR_CLOSE_OUTCOME (R80). Region outcome (and any vote) known: close, repeat, exhausted or dirty, and write sd. -/
  | lyrCloseOutcome (n : Core)
  /-- STEP_VOTE (R82). Wait for all queues, then contribute and clear the core's step flags. -/
  | stepVote (n : Core) (w : BitVec 48)
  /-- STEP_VOTE_CONTRIBUTE (R82). All queues completed: the core contributes its step flags to the part's vote. -/
  | stepVoteContribute (n : Core)
  /-- STEP_COMMIT (R357). Wait for all queues, then seal and enter WAITING for the decision. -/
  | stepCommit (n : Core) (w : BitVec 48)
  /-- STEP_COMMIT_SEAL (R357). All queues completed: the core contributes its seal and enters WAITING. -/
  | stepCommitSeal (n : Core)
  /-- SYS_NOP (R201). No operation. -/
  | sysNop (n : Core) (w : BitVec 48)
  /-- SYS_HALT (R68). Wait for every queue to complete, then halt. -/
  | sysHalt (n : Core) (w : BitVec 48)
  /-- SYS_HALT_COMPLETE (R68). Queues complete: halt_code written, state HALTED, interrupt raised. -/
  | sysHaltComplete (n : Core)
  /-- SYS_REP (R174). Write the open region's repeat index into sd. -/
  | sysRep (n : Core) (w : BitVec 48)
  /-- SYS_CYC (R201). Write ACLK cycles since launch into sd. -/
  | sysCyc (n : Core) (w : BitVec 48)
  /-- SYS_MARK (R201). Awl writes a trace record with imm16, address, region and cycle count. -/
  | sysMark (n : Core) (w : BitVec 48)
  /-- ENGINE_INSTRUCTION_START (R62). A queued engine instruction's wait is met and it starts in its engine, subtracting its wait count. -/
  | engineInstructionStart (n : Core) (q : QueueId) (hw : HwFault)
  /-- ST_RING (R144). Configure a ring's base and slot count once it is empty and idle. -/
  | stRing (n : Core) (w : BitVec 48)
  /-- ST_DESC (R151). Load a stream register from a 96 B descriptor in scratch. -/
  | stDesc (n : Core) (w : BitVec 48)
  /-- ST_GO (R153). Check and start a stream with its offset. -/
  | stGo (n : Core) (w : BitVec 48)
  /-- READ_REQUEST_ISSUE (R157). A read request issues once it holds a free tag and its stream's lead allows. -/
  | readRequestIssue (n : Core) (t : Fin 16)
  /-- READ_REPLY_LAND (R158). A read reply lands in the Welt and releases its tag. -/
  | readReplyLand (n : Core) (tag : BitVec 7) (uc : BitVec 4) (e : Ecc)
  /-- BLOCK_MOVE_TO_RING (R158). A landed block next in stream order moves into an EMPTY tail slot, which becomes FULL. -/
  | blockMoveToRing (n : Core) (x : SlotMove)
  /-- WRITE_SLOT_TAKE (R159). A write stream takes a FULL head slot with a tag and block and sends the write. -/
  | writeSlotTake (n : Core) (t : Fin 16) (e : Ecc)
  /-- WRITE_ACKNOWLEDGE (R159). A write's acknowledgement lands and its tag is released. -/
  | writeAcknowledge (n : Core) (tag : BitVec 7) (uc : BitVec 4)
  /-- REQUEST_TIME_LIMIT (R163). A request gets no reply within its time limit and is abandoned. -/
  | requestTimeLimit (n : Core) (tag : BitVec 7)
  /-- STREAM_COMPLETE (R154). A read stream's last byte is FULL or a write stream's last write is acknowledged. -/
  | streamComplete (n : Core) (t : Fin 16)
  /-- NM_OPT (R270). Near-memory optimizer update into epoch E+1 with norm ledger. -/
  | nmOpt (n : Core) (w : BitVec 48)
  /-- NM_GATHER (R272). Gather table records by index list. -/
  | nmGather (n : Core) (w : BitVec 48)
  /-- NM_SCATTER (R272). Scatter source records into a table by index list. -/
  | nmScatter (n : Core) (w : BitVec 48)
  /-- NM_SHUFFLE (R273). Seeded permutation of records. -/
  | nmShuffle (n : Core) (w : BitVec 48)
  /-- NM_REDUCE (R274). Sum k partials element-wise in ascending order. -/
  | nmReduce (n : Core) (w : BitVec 48)
  /-- NM_QUANT (R275). Quantise to V8 or V4 with computed block scales. -/
  | nmQuant (n : Core) (w : BitVec 48)
  /-- NM_DEQUANT (R275). Dequantise block-scaled elements. -/
  | nmDequant (n : Core) (w : BitVec 48)
  /-- NM_AMAX (R276). Largest magnitude of a tensor as F32. -/
  | nmAmax (n : Core) (w : BitVec 48)
  /-- NM_COMMAND_START (R267). A near-memory command starts once every anchor stack has a free command entry. -/
  | nmCommandStart (n : Core) (e : Ecc)
  /-- STACK_PROGRESS_REPORT (R267). A stack reports progress on a running command: a granule of its anchor operand is done. -/
  | stackProgressReport (x : StackAct)
  /-- NM_STACK_REPORT (R267). A stack reports completion of its share of a command. -/
  | nmStackReport (k : StackId) (e : Ecc)
  /-- NM_STACK_SILENCE_TIMEOUT (R267). A stack silent beyond the local time limit ends the command with TIMEOUT. -/
  | nmStackSilenceTimeout (n : Core) (k : StackId)
  /-- MX_LOAD (R87). Load a stationary tile into a bank from a ring. -/
  | mxLoad (n : Core) (w : BitVec 48)
  /-- MX_PASS (R91). Matrix pass of moving rows through a loaded tile into the heel. -/
  | mxPass (n : Core) (w : BitVec 48)
  /-- MX_PASS_COMPLETE (R91). A pass's last heel add is made and it completes and signals. -/
  | mxPassComplete (n : Core)
  /-- MX_AG (R218). Fused all-gather feeding a matrix pass. -/
  | mxAg (n : Core) (w : BitVec 48)
  /-- MX_RS (R219). Fused matrix pass draining rows into a reduce-scatter. -/
  | mxRs (n : Core) (w : BitVec 48)
  /-- FUSED_COMPLETE (R220). Both sides of a fused instruction complete and it signals once. -/
  | fusedComplete (n : Core)
  /-- MX_RSTAT (R104). Write row statistics to a ring after earlier passes complete. -/
  | mxRstat (n : Core) (w : BitVec 48)
  /-- MV_DOT (R113). Shank path product of 1 to 16 register rows with a streamed tile. -/
  | mvDot (n : Core) (w : BitVec 48)
  /-- MV_DOT_COMPLETE (R118). Last heel add of an MV.DOT made; it completes one cycle later. -/
  | mvDotComplete (n : Core)
  /-- VX_CHAIN (R128). Fused chain of up to 8 stages over rows with optional reduction. -/
  | vxChain (n : Core) (w : BitVec 48)
  /-- VX_CHAIN_COMPLETE (R135). Chain completes one cycle after its last write. -/
  | vxChainComplete (n : Core)
  /-- VX_PERM (R141). Permute lanes of a register by an index register. -/
  | vxPerm (n : Core) (w : BitVec 48)
  /-- VX_PERM2 (R141). Permute from two registers by index. -/
  | vxPerm2 (n : Core) (w : BitVec 48)
  /-- VX_SHUF (R141). Fixed-pattern lane shuffle. -/
  | vxShuf (n : Core) (w : BitVec 48)
  /-- VX_CMPR (R141). Compress masked lanes to low lanes. -/
  | vxCmpr (n : Core) (w : BitVec 48)
  /-- VX_EXPD (R141). Expand low lanes to masked lanes. -/
  | vxExpd (n : Core) (w : BitVec 48)
  /-- VX_PACK (R141). Convert and pack elements into 16- or 8-bit lanes. -/
  | vxPack (n : Core) (w : BitVec 48)
  /-- VX_UNPK (R141). Unpack and widen packed elements. -/
  | vxUnpk (n : Core) (w : BitVec 48)
  /-- VX_MSET (R141). Set a mask from non-zero lanes. -/
  | vxMset (n : Core) (w : BitVec 48)
  /-- VX_SPLAT (R141). Broadcast a scalar to every lane. -/
  | vxSplat (n : Core) (w : BitVec 48)
  /-- VX_FLAGS (R137). Write the program's sticky flags to lane 0 and clear them. -/
  | vxFlags (n : Core) (w : BitVec 48)
  /-- CL_AR (R337). All-reduce collective. -/
  | clAr (n : Core) (w : BitVec 48)
  /-- CL_RS (R338). Reduce-scatter collective. -/
  | clRs (n : Core) (w : BitVec 48)
  /-- CL_AG (R339). All-gather collective. -/
  | clAg (n : Core) (w : BitVec 48)
  /-- CL_A2A (R346). All-to-all with capacity and drops. -/
  | clA2a (n : Core) (w : BitVec 48)
  /-- CL_BC (R340). Broadcast from a root. -/
  | clBc (n : Core) (w : BitVec 48)
  /-- CL_BAR (R341). Barrier by ARRIVE control packets. -/
  | clBar (n : Core) (w : BitVec 48)
  /-- COLLECTIVE_START (R215). A collective starts in the CL queue, checks its descriptor and takes a sequence number. -/
  | collectiveStart (n : Core) (e : Ecc) (d : Ecc)
  /-- CHUNK_SEND (R342). A member sends a CHUNK once it holds a credit and window room. -/
  | chunkSend (c : Comm) (key : ChunkKey)
  /-- CHUNK_WAIT_EXPIRY (R347). A chunk wait ends without the chunk: send REREQ or fail with TIMEOUT. -/
  | chunkWaitExpiry (c : Comm) (key : ChunkKey)
  /-- CREDIT_BATCH_TIMER (R342). A freed credit held 1 us is returned in a CREDIT packet. -/
  | creditBatchTimer (c : Comm) (src : Coord)
  /-- CHUNK_RECEIVE (R334). A CHUNK packet is matched by comm, seq and r, reduced or written, and forwarded. -/
  | chunkReceive (p : Port) (k : Packet)
  /-- CREDIT_RECEIVE (R342). A CREDIT packet returns slot credits and adjusts the window. -/
  | creditReceive (p : Port) (k : Packet)
  /-- REREQ_RECEIVE (R347). A REREQ makes the source re-send the chunk into the retry slot. -/
  | rereqReceive (p : Port) (k : Packet)
  /-- CTRL_ARRIVE_RECEIVE (R341). A barrier ARRIVE control packet is counted toward its phase. -/
  | ctrlArriveReceive (p : Port) (k : Packet)
  /-- CTRL_VOTE_RECEIVE (R341). A region VOTE control packet is combined into the outcome. -/
  | ctrlVoteReceive (p : Port) (k : Packet)
  /-- CTRL_ABORT_RECEIVE (R349). An ABORT ends, pre-fails or is dropped for the collective. -/
  | ctrlAbortReceive (p : Port) (k : Packet)
  /-- STEP_VOTE_RECEIVE (R358). A STEP VOTE packet's word is ORed into the flag round phase. -/
  | stepVoteReceive (p : Port) (k : Packet)
  /-- STEP_SEAL_RECEIVE (R358). A STEP SEAL packet's word is ORed into the seal round phase. -/
  | stepSealReceive (p : Port) (k : Packet)
  /-- STEP_RESEND_RECEIVE (R360). A RESEND is answered by re-sending kept packets. -/
  | stepResendReceive (p : Port) (k : Packet)
  /-- STEP_DIGEST_RECEIVE (R370). A DIGEST packet is kept for comparison at commit in shadow mode. -/
  | stepDigestReceive (p : Port) (k : Packet)
  /-- VOTE_WAIT_EXPIRY (R360). A vote wait ends without a word: send RESEND or mark the part absent. -/
  | voteWaitExpiry (peer : Coord)
  /-- CLE_DECIDE_COMMIT (R363). Runtime writes the token with commit to decide the step. -/
  | cleDecideCommit (epoch : BitVec 32) (attempt : BitVec 8) (result : BitVec 16)
  /-- CLE_DECIDE_ABORT (R365). Runtime writes the token with abort; E+1 discarded and WAITING cores get ABORTED. -/
  | cleDecideAbort (epoch : BitVec 32) (attempt : BitVec 8) (result : BitVec 16)
  /-- STACK_DECISION_ACT (R255). A stack acts on the decision once commands and previous settling are done. -/
  | stackDecisionAct (x : StackAct)
  /-- COMMIT_FINISH (R364). All stacks acted: epochs advance, pool released, replay record written, cores leave WAITING. -/
  | commitFinish
  /-- EPOCH_SETTLE (R256). A stack settles one written-granule record per stack cycle after a decision. -/
  | epochSettle (x : StackAct)
  /-- INBOUND_READ_RECEIVE (R297). A READ packet for this part is accepted into an inbound block and the read starts. -/
  | inboundReadReceive (p : Port) (k : Packet)
  /-- INBOUND_WRITE_RECEIVE (R298). A WRITE packet for this part is accepted and written. -/
  | inboundWriteReceive (p : Port) (k : Packet)
  /-- INBOUND_REPLY_SEND (R229). An inbound access completes and its READ_RSP or WRITE_ACK leaves. -/
  | inboundReplySend (e : Ecc)
  /-- READ_RSP_RECEIVE (R297). A READ_RSP reaches the requesting stream engine. -/
  | readRspReceive (p : Port) (k : Packet)
  /-- WRITE_ACK_RECEIVE (R297). A WRITE_ACK reaches the requesting stream engine. -/
  | writeAckReceive (p : Port) (k : Packet)
  /-- NOTICE_RECEIVE (R313). A NOTICE installs or clears a fence table entry. -/
  | noticeReceive (p : Port) (k : Packet)
  /-- TRANSIT_PACKET_RECEIVE (R303). A packet for another part is checked, routed and moved into a FWD block. -/
  | transitPacketReceive (p : Port) (k : Packet)
  /-- PACKET_TRANSMIT (R307). An output port grants and sends a whole packet holding a credit. -/
  | packetTransmit (p : Port) (e : Ecc)
  /-- LINK_CREDIT_RETURN (R306). A receiver returns a virtual-channel credit when a packet leaves its place. -/
  | linkCreditReturn (p : Port) (vc : Fin 8)
  /-- IDENTITY_FRAME_SEND (R289). A port sends an identity frame on its period. -/
  | identityFrameSend (p : Port) (farLane : BitVec 4) (farCsym : BitVec 16)
  /-- IDENTITY_FRAME_RECEIVE (R293). A valid identity frame is checked against the Last and sets the port state. -/
  | identityFrameReceive (p : Port) (frame : List Byte)
  /-- PORT_TRAINING_COMPLETE (R290). Lanes settle and the port enters IDENTIFY with its width. -/
  | portTrainingComplete (p : Port) (mask : BitVec 8)
  /-- TRAINING_TIMEOUT (R289). Lanes do not settle within 200 ms; port to DOWN reason 3. -/
  | trainingTimeout (p : Port)
  /-- IDENTIFY_TIMEOUT (R289). No valid identity frame within 10 ms; port to DOWN reason 4. -/
  | identifyTimeout (p : Port)
  /-- AUTO_RETRAIN_TIMER (R289). 10 ms after DOWN for reason 4 or 6 with auto set, the port retrains. -/
  | autoRetrainTimer (p : Port)
  /-- LANE_LOSS_OF_LOCK (R290). Loss of lock on a lane in use takes the port DOWN with reason 6. -/
  | laneLossOfLock (p : Port)
  /-- FEC_ERROR_LIMIT (R290). More than 16 uncorrectable code words in 1 ms take the port DOWN. -/
  | fecErrorLimit (x : LinkErrors)
  /-- FAB_LANE_APPLY (R288). Apply lane split and extents when every port is DOWN and disabled. -/
  | fabLaneApply
  /-- FAB_CLR_CNT (R316). Clear every FAB_PCNTn and FAB_DISC. -/
  | fabClrCnt
  /-- FAB_INJECT_STOP (R314). Stop or resume injection of local packets for draining. -/
  | fabInjectStop (on : Bool)
  /-- FAB_TOPO_WRITE (R317). Write coordinate and extents, ignored unless every port is DOWN. -/
  | fabTopoWrite (v : Word)
  /-- FAB_FENCE_SET (R311). Fence this part under a token. -/
  | fabFenceSet (token : BitVec 24)
  /-- FAB_FENCE_CLEAR (R311). Lift this part's fence when the token matches. -/
  | fabFenceClear (token : BitVec 24)
  /-- FAB_NOTICE_WRITE (R313). Send a NOTICE packet setting or clearing a fence entry. -/
  | fabNoticeWrite (v : Word)
  /-- FAB_FTBL_WRITE (R312). Set or token-checked clear of a fence table entry. -/
  | fabFtblWrite (k : Fin 16) (v : Word)
  /-- FAB_LAST_WRITE (R294). Write a Last entry, checked at the port's next frame. -/
  | fabLastWrite (p : Port) (v : Word)
  /-- FAB_PORT_RETRAIN (R315). Retrain a port through DOWN. -/
  | fabPortRetrain (p : Port)
  /-- FAB_PORT_IDENT (R315). Re-identify a port without retraining. -/
  | fabPortIdent (p : Port)
  /-- FAB_PORT_DISABLE (R315). Set or clear a port's disable. -/
  | fabPortDisable (p : Port) (on : Bool)
  /-- WLT_APPLY (R233). Apply Welt area and class configuration when quiesced. -/
  | wltApply
  /-- WLT_CLR_CNT (R240). Clear both WLT_ECC counts. -/
  | wltClrCnt
  /-- WLT_CLR_PEAK (R240). Set every WLT_USEn.peak to its current used. -/
  | wltClrPeak
  /-- WELT_BLOCK_GRANT (R227). A waiting client is granted a staging block from reservation or shared pool. -/
  | weltBlockGrant (c : WeltClass)
  /-- WELT_SCRUB_BEAT (R237). Patrol scrub reads a bank beat within its window, correcting or poisoning. -/
  | weltScrubBeat (bank : BitVec 11) (e : Ecc × Ecc)
  /-- INS_APPLY (R252). Apply Insole map and epoch ranges when quiesced. -/
  | insApply
  /-- INS_RESET (R277). Reset a stack through quiesce, save, self-refresh and retrain, optionally clearing. -/
  | insReset (k : StackId) (clear : Bool)
  /-- STACK_RESET_RETURN (R277). A resetting stack restores its epoch table and accepts requests. -/
  | stackResetReturn (k : StackId)
  /-- INS_CLR_CNT (R279). Clear INS_ECC. -/
  | insClrCnt (k : StackId)
  /-- INS_SCRUB_LINE (R262). Patrol scrub reads one line per channel every scrub period. -/
  | insScrubLine (k : StackId) (line : BitVec 30) (e : Ecc)
  /-- ROW_SPARE (R261). A row corrected more than 4 times in 1 s is copied to a spare row. -/
  | rowSpare (k : StackId) (spareLeft : Bool)
  /-- STACK_REFRESH (R263). A bank refresh falls due at the interval of the stack's level. -/
  | stackRefresh (k : StackId)
  /-- STACK_THROTTLE_CHANGE (R263). Stack temperature crosses a level bound and the throttle level changes. -/
  | stackThrottleChange (k : StackId) (temp : BitVec 8)
  /-- STACK_CHANNEL_RECAL (R496). Background recalibration of a stack channel. -/
  | stackChannelRecal (k : StackId) (ch : Fin 16)
  /-- FABRIC_LANE_RECAL (R496). Background recalibration of a fabric lane. -/
  | fabricLaneRecal (p : Port)
  /-- CORE_LAUNCH_START (R65). Launch a core at CORE_ENTRY with level and voter, or refuse. -/
  | coreLaunchStart (n : Core) (level : BitVec 8) (voter : Bool)
  /-- CORE_LAUNCH_STOP (R67). Quiesce a running or waiting core into STOPPED. -/
  | coreLaunchStop (n : Core)
  /-- CORE_STOP_QUIESCED (R67). Started instructions have ended; the stopped core enters STOPPED. -/
  | coreStopQuiesced (n : Core)
  /-- CORE_SRKEY_WRITE (R180). Write the core's key, ignored while RUNNING or WAITING. -/
  | coreSrkeyWrite (n : Core) (v : Word)
  /-- CORE_SREPOCH_WRITE (R180). Write the core's epoch, ignored while RUNNING or WAITING. -/
  | coreSrepochWrite (n : Core) (v : BitVec 32)
  /-- INS_SRKEY_WRITE (R285). Write a stack's key copy, ignored while cores run or commands are queued. -/
  | insSrkeyWrite (k : StackId) (v : Word)
  /-- INS_SREPOCH_WRITE (R285). Write a stack's epoch copy, ignored while cores run or commands are queued. -/
  | insSrepochWrite (k : StackId) (v : BitVec 32)
  /-- CLE_APPLY (R332). Configure, change or remove a communicator. -/
  | cleApply (cdef : Comm)
  /-- CLE_CLR_CNT (R351). Clear CLE_STAT. -/
  | cleClrCnt
  /-- CLE_STEPCFG_WRITE (R374). Write vote configuration, ignored while any core is WAITING. -/
  | cleStepcfgWrite (grp : Bool) (v : Word)
  /-- CLE_SHADOW_MODE_WRITE (R370). Set shadow mode, refused leaving shadow before 8 matches. -/
  | cleShadowModeWrite (mode : BitVec 2)
  /-- AWL_REWIND (R372). Rewind every stack to the former committed copies after a commit. -/
  | awlRewind
  /-- ING_GO (R407). Check configuration and start the loader. -/
  | ingGo
  /-- ING_STOP (R407). Stop filling at the next sample boundary. -/
  | ingStop
  /-- ING_RESUME (R388). End a stall and re-read the segment. -/
  | ingResume
  /-- ING_CLR_CNT (R409). Clear ts_err and Ethernet port counters. -/
  | ingClrCnt
  /-- ING_PORT_RESET (R488). Reset an Ethernet port's MAC and PCS. -/
  | ingPortReset (p : Port)
  /-- ROCE_RESPONSE_RECEIVE (R387). A RoCEv2 read response lands in ING blocks on a configured connection. -/
  | roceResponseReceive (c : Conn) (data : List Byte) (ce : Bool)
  /-- RDMA_READ_SEND (R387). An RDMA READ request is sent once its ING blocks are reserved. -/
  | rdmaReadSend (c : Conn)
  /-- ROCE_RETRY_TIMEOUT (R387). Acknowledgement timeout retries a read or exhausts the connection. -/
  | roceRetryTimeout (c : Conn)
  /-- RDMA_REQUEST_RECEIVE (R385). An RDMA request to the part is answered with a NAK. -/
  | rdmaRequestReceive (x : PortFrame)
  /-- CC_FRAME_RECEIVE (R425). A frame for the control complex is written to the receive ring. -/
  | ccFrameReceive (p : Port) (frame : List Byte)
  /-- CC_FRAME_TRANSMIT (R425). A frame from the transmit ring is sent with FCS and optional timestamp. -/
  | ccFrameTransmit
  /-- PFC_FRAME_RECEIVE (R386). A PFC frame pauses transmission on named priorities. -/
  | pfcFrameReceive (p : Port) (prios : BitVec 8) (time : Nat)
  /-- ETHERNET_FRAME_DISCARD (R385). An unhandled frame on a data port is discarded and counted. -/
  | ethernetFrameDiscard (x : PortFrame)
  /-- LLDP_SEND (R390). A control port sends an LLDPDU every 30 s and on link-up. -/
  | lldpSend (p : Port)
  /-- ETHERNET_LINK_CHANGE (R415). An Ethernet port's link goes up or down. -/
  | ethernetLinkChange (p : Port) (up : Bool)
  /-- SEGMENT_DECODE_COMPLETE (R395). A decode engine finishes a segment and its records are written. -/
  | segmentDecodeComplete (d : Decoded)
  /-- BATCH_READY (R405). Every record of a batch is written; it becomes READY and the semaphore is signalled. -/
  | batchReady
  /-- LOADER_POSITION_WRITE (R392). After the previous decision, the Clicker writes the next loader position into E+1. -/
  | loaderPositionWrite
  /-- CTX_RING_WRITE (R426). Set a frame ring's base and size, resetting head and tail. -/
  | ctxRingWrite (tx : Bool) (v : Word)
  /-- CTX_RXIDX_TAIL_WRITE (R425). Runtime frees receive slots by writing tail. -/
  | ctxRxidxTailWrite (v : BitVec 16)
  /-- CTX_TXIDX_TAIL_WRITE (R425). Runtime hands transmit slots to the Clicker by writing tail. -/
  | ctxTxidxTailWrite (v : BitVec 16)
  /-- CTX_RESET (R487). Control complex resets itself and repeats the handoff. -/
  | ctxReset
  /-- CC_MEMORY_ACCESS (R417). A hart accesses part memory or registers, faulting outside permitted ranges. -/
  | ccMemoryAccess (h : Hart) (a : Access)
  /-- CLK_JOB_ENTER (R467). Enter ACTIVE from JOINED. -/
  | clkJobEnter
  /-- CLK_JOB_LEAVE (R467). Leave ACTIVE for JOINED with no core running. -/
  | clkJobLeave
  /-- CLK_FREQ_WRITE (R463). Request ACLK pulse count and CCLK frequency. -/
  | clkFreqWrite (cclk : BitVec 8) (aclk : BitVec 5)
  /-- CLK_CLUPOL_WRITE (R468). Set cluster gating policy; 0 wakes a gated cluster. -/
  | clkClupolWrite (v : BitVec 8)
  /-- CLK_TIME_WRITE (R465). Set the time counter's integer part. -/
  | clkTimeWrite (v : Word)
  /-- CLK_TSTEP_WRITE (R465). Step the time counter by a signed amount. -/
  | clkTstepWrite (v : Word)
  /-- CLOCK_LIMIT_STEP (R463). Each ms Cobbler lowers or raises aclk_lim and cclk_lim by one. -/
  | clockLimitStep
  /-- CLUSTER_CLOCK_GATE (R468). A cluster idle for 10 us stops its clocks. -/
  | clusterClockGate (c : Cluster)
  /-- CLUSTER_POWER_GATE (R468). 1 ms after clock gating under policy 2 the cluster is powered off. -/
  | clusterPowerGate (c : Cluster)
  /-- CLUSTER_WAKE (R468). A launch or access wakes a gated cluster; the access completes after the wake. -/
  | clusterWake (c : Cluster)
  /-- RREF_LOSS (R494). Loss of RREF returns the time counter to AOCLK and, after start-up, enters FAULT. -/
  | rrefLoss
  /-- PLL_LOCK_LOSS (R494). A fast PLL loses lock after start-up and the part enters FAULT. -/
  | pllLockLoss
  /-- AWL_FREEZE_WRITE (R472). Runtime drives FRZ_N low for 10 us. -/
  | awlFreezeWrite
  /-- FRZ_N_RELEASE (R472). After 10 us the driving part releases FRZ_N. -/
  | frzNRelease
  /-- FRZ_N_LOW (R473). FRZ_N seen low: the part stops units in order and enters FROZEN. -/
  | frzNLow
  /-- POWER_ON_RESET (R470). V33 rises through 2.97 V: everything resets and start-up begins. -/
  | powerOnReset
  /-- V33_LOSS (R510). V33 below 2.90 V for 1 us takes the part to OFF. -/
  | v33Loss
  /-- RST_N_ASSERT (R513). RST_N held low resets the die. -/
  | rstNAssert
  /-- RST_N_RELEASE (R513). RST_N rises: die reset completes and start-up resumes at step 6 or 4. -/
  | rstNRelease
  /-- START_UP_SEQUENCE (R471). The part runs start-up steps from power, POWER ON or die reset to READY. -/
  | startUpSequence (env : StartEnv)
  /-- START_UP_RETRY (R471). Each second, step 4 is retried while RREF or a rail is absent. -/
  | startUpRetry (env : StartEnv)
  /-- SENSOR_SAMPLE (R452). Cobbler samples sensors and applies warnings, limits and trips. -/
  | sensorSample (x : Sensors)
  /-- VOLTAGE_COMPARATOR_TRIP (R510). V12 or V12A outside 8 % for 10 us trips the part to FAULT. -/
  | voltageComparatorTrip (r : Rail)
  /-- COBBLER_LOCKSTEP_MISMATCH (R433). Lockstep outputs differ: Cobbler resets, or holds in reset on the third in 1 h. -/
  | cobblerLockstepMismatch
  /-- COBBLER_BOOT (R441). Boot ROM selects, verifies and starts Cobbler firmware or enters recovery. -/
  | cobblerBoot
  /-- HEALTH_RECORD_FLUSH (R451). Each second Cobbler writes one record per changed health count. -/
  | healthRecordFlush
  /-- EVENT_MIRROR_WRITE (R451). Records are written to the SPI NOR mirror within 100 ms. -/
  | eventMirrorWrite
  /-- AWL_HELD_RECORD_DELIVERY (R21). On Cobbler's return the Awl delivers held records in order. -/
  | awlHeldRecordDelivery
  /-- MGMT_SESSION_CONNECT (R453). A TLS client opens a management session of class O or R. -/
  | mgmtSessionConnect (cert : List Byte)
  /-- MGMT_UNKNOWN_COMMAND (R454). An unknown, out-of-class or malformed request completes with ABORTED. -/
  | mgmtUnknownCommand (c : Client) (code : BitVec 16) (tag : BitVec 16)
  /-- GET_INFO (R455). Return identity, firmware slots, counter, generation and state. -/
  | getInfo (c : Client) (tag : BitVec 16)
  /-- GET_QUOTE (R445). Return a signed attestation quote over a nonce. -/
  | getQuote (c : Client) (tag : BitVec 16) (nonce : List Byte)
  /-- GET_CERTS (R455). Return the certificate chain. -/
  | getCerts (c : Client) (tag : BitVec 16)
  /-- READ_LOG (R455). Return event records from a sequence number. -/
  | readLog (c : Client) (tag : BitVec 16) (seq : Nat)
  /-- READ_SENSORS (R455). Return the latest sensor values. -/
  | readSensors (c : Client) (tag : BitVec 16)
  /-- READ_HEALTH (R455). Return health counters by unit and class. -/
  | readHealth (c : Client) (tag : BitVec 16)
  /-- FW_WRITE (R446). Write up to 64 KiB to the inactive image slot. -/
  | fwWrite (c : Client) (tag : BitVec 16) (offset : Nat) (data : List Byte)
  /-- FW_VERIFY (R446). Verify the written slot. -/
  | fwVerify (c : Client) (tag : BitVec 16)
  /-- FW_ACTIVATE (R446). Verify, set the slot pending with 3 tries and reset Cobbler. -/
  | fwActivate (c : Client) (tag : BitVec 16)
  /-- FW_COMMIT (R446). Make the running pending image active and close the update. -/
  | fwCommit (c : Client) (tag : BitVec 16)
  /-- FW_LOCK (R447). Blow anti-rollback fuses up to the running svn. -/
  | fwLock (c : Client) (tag : BitVec 16)
  /-- FW_REVOKE (R447). Blow a key slot's revoke bit. -/
  | fwRevoke (c : Client) (tag : BitVec 16) (slot : Nat)
  /-- FUSE_GEN (R437). Program the next configuration generation block. -/
  | fuseGen (c : Client) (tag : BitVec 16) (block : List Byte) (good : Bool)
  /-- SET_LAST (R455). Write FAB_LASTn entries for given ports. -/
  | setLast (c : Client) (tag : BitVec 16) (entries : List (Port × Word))
  /-- MEASURE (R443). Extend one of M4 to M7 with a digest. -/
  | measure (c : Client) (tag : BitVec 16) (m : Nat) (digest : List Byte)
  /-- RESET_UNIT (R456). Reset a named unit under its handshake. -/
  | resetUnit (c : Client) (tag : BitVec 16) (u : ResetUnit)
  /-- POWER (R469). Request STANDBY or ON. -/
  | power (c : Client) (tag : BitVec 16) (on : Bool)
  /-- SELF_TEST (R495). Run a named built-in test. -/
  | selfTest (c : Client) (tag : BitVec 16) (t : SelfTest) (pass : Bool)
  /-- FREEZE (R455). Cobbler asserts FRZ_N through the Awl. -/
  | freeze (c : Client) (tag : BitVec 16)
  /-- READ_FROZEN (R475). Read frozen state in pieces of up to 64 KiB. -/
  | readFrozen (c : Client) (tag : BitVec 16) (space : Nat) (u : Nat) (offset : Nat) (len : Nat) (bad : List Nat)
  /-- CBL_DOORBELL (R457). Send the mailbox request to Cobbler, or refuse. -/
  | cblDoorbell
  /-- CBL_ACK (R459). Free the reply buffer; next piece or notice is placed. -/
  | cblAck
  /-- UNIT_RESET_SETTLE_END (R483). A resetting unit's accepted work has ended; it resets and its epoch advances. -/
  | unitResetSettleEnd (u : ResetUnit)
  /-- UNIT_RESET_RETURN (R483). The proxy is withdrawn and the unit accepts requests again. -/
  | unitResetReturn (u : ResetUnit)
  /-- SETTLE_TIMEOUT (R494). A unit's Settle not ended 1 ms after Refuse: the part enters FAULT. -/
  | settleTimeout (u : ResetUnit)
  /-- STACK_RETURN_TIMEOUT (R494). A stack not returned 50 ms after reset: the part enters FAULT. -/
  | stackReturnTimeout (k : StackId)
  /-- REGISTER_WRITE (R11). Write to a register field with no behaviour of its own. -/
  | registerWrite (addr : Word) (v : Word)
  /-- PFC_PAUSE_EXPIRY (R386). The pause time carried by a received PFC frame runs out and the port resumes transmission on the named priorities. -/
  | pfcPauseExpiry (p : Port) (prios : BitVec 8)
  /-- CLUSTER_WAKE_COMPLETE (R468). A waking cluster finishes its 2 us or 50 us wake, gstate returns to on, and the waiting access or launched program proceeds. -/
  | clusterWakeComplete (c : Cluster)
  /-- ING_PORT_DISABLE (R415). A write of ING_PORTn.disable holds the Ethernet port down or releases it. -/
  | ingPortDisable (p : Port) (on : Bool)
deriving DecidableEq, Repr

end Sys2Proof
end

