-- ==== Sys2Proof/Config.lean ====
section
/-! DEFINITION. What the spec leaves open: free values with no body, of which nothing can be proved, and the functions
that other standards define and the spec only names. Each is named in the assumption log. -/

namespace Sys2Proof

/-- The value a special function of the vector engine returns within the error bound of R140: by operation code
(R133) and F32 operand. -/
opaque Config.special : Nat → BitVec 32 → BitVec 32

/-- Lane values of an operand that names input 1 of a chain that has none: by instruction and lane. -/
opaque Config.absentInput : Nat → Nat → BitVec 32

/-- SHA-512 (R438 to R446). -/
opaque Config.sha512 : List Byte → BitVec 512

/-- Whether an RSA-PSS signature over a digest verifies under a key (R440 to R446): key digest, digest, signature. -/
opaque Config.signatureGood : List Byte → BitVec 512 → List Byte → Bool

/-- A signature by the part's attestation key (R445). -/
opaque Config.attest : List Byte → List Byte

/-- The class of a TLS client certificate: none when refused, true for class O (R453). -/
opaque Config.certClass : List Byte → Option Bool

/-- The sample a crop rectangle takes from outside the decoded plane, by column and row (R399). -/
opaque Config.outside : Nat → Nat → Nat

/-- Whether mode 0 records are sized for samples of 2 bytes: the record size is one for a job, and the depth of its
sources is known only as they are decoded (R399, R400). -/
opaque Config.wideSamples : Bool

/-- Whether an instruction reads a word of its descriptor as it was before a store made since it issued: by instruction,
word, and how many stores ago (R203). -/
opaque Config.readsOld : Nat → Nat → Nat → Bool

/-- Whether a byte that a write stream names again keeps the value written before: by instruction and byte of the stream
(R160). -/
opaque Config.keepsEarlier : Nat → Nat → Bool

/-- Which engine of a core acts first where more than one could: by the instructions they run and how far those have come
(R58, R124). -/
opaque Config.turn : List Nat → Nat

/-- Which byte of the content of a space stands at an offset of its read-out, of which R475 gives the content and no layout: the
number of the piece of content and of the byte in it, by space and offset. -/
opaque Config.frozenPlace : Nat → Nat → Nat × Nat

/-- The control complex's own MAC address, of which the spec gives no value (R385). -/
opaque Config.ownMac : BitVec 48

/-- The system name that the control complex last wrote, of which the spec gives no register, as it stands at a moment
(R390). -/
opaque Config.sysName : Nat → List Byte

/-- Values the spec leaves open, numbered as they are drawn. -/
opaque Config.free : Nat → BitVec 64

end Sys2Proof
end

