-- ==== Sys2Proof/Machine/State.lean ====
section
/-! DEFINITION. The state of the part: plain data, holding every register, buffer, counter, mode and pin the spec
names, the queue of waiting commands, and State.reset. -/

namespace Sys2Proof.Machine

/-- The block stops with no fault of its own: every exception the spec names (a core fault, a hart's access fault, the
part state FAULT) is a next state. So the type has no constructor, which is safe. -/
inductive Fault where
deriving DecidableEq, Repr

/-- Why a command has no meaning. -/
inductive Refusal where
  /-- Raised by an arm of exec whose row has no meaning yet; safe, since nothing is claimed of it. -/
  | notModelled (mnemonic : String)
deriving DecidableEq, Repr

/-- Bytes by offset, in one canonical form: offsets strictly rising, no entry equal to zero, which is what an unlisted
offset reads as (start-up writes every memory to zero, R471). -/
abbrev Memory := List Host.Cell

/-- Sparse tables by number, in the same canonical form with respect to the table's default value. -/
abbrev SMap (α : Type) := List (Nat × α)

/-- Sets of numbers, strictly rising. -/
abbrev NatSet := List Nat

/-- Completion statuses (R498). -/
inductive Status where
  | ok | alreadyDone | busy | timeout | aborted | refusedReset | eccUncorrectable | residueFault
  | overflowRepeatExhausted | nanInRegion | fenced | versionMismatch | topologyMismatch | seqMismatch | capacityDrop
deriving DecidableEq, Repr

/-- CORE_STATUS.state (R72). -/
inductive CoreRun where
  | idle | running | waiting | halted | faulted | stopped
deriving DecidableEq, Repr

/-- The phase of a unit's reset handshake (R483): in service, refusing and settling, or reset and not yet returned. -/
inductive UnitPhase where
  | service | settling | returning
deriving DecidableEq, Repr

/-- A semaphore (R61). -/
structure Sem where
  count : BitVec 16
  status : Status
deriving DecidableEq, Repr

/-- Slot states (R146). -/
inductive SlotState where
  | empty | claimed | full | held
deriving DecidableEq, Repr

/-- A ring slot: its state, valid bytes, end-of-stream mark, and the instruction that filled it (R146 to R149, R157). -/
structure Slot where
  st : SlotState
  cnt : Nat
  eos : Bool
  owner : Nat
deriving DecidableEq, Repr

/-- A ring (R144 to R150): configuration, slots, head and tail, bytes already read of the head slot, the failure mark,
the instruction that is its active producer or consumer, and, of a failed ring, how many of the slots that were FULL when
it failed are not yet read. -/
structure Ring where
  base : BitVec 11
  nslots : BitVec 5
  slots : List Slot
  head : Nat
  tail : Nat
  rpos : Nat
  failed : Option Status
  prod : Option Nat
  cons : Option Nat
  good : Nat := 0
deriving DecidableEq, Repr

/-- A value: NaN, an infinity, or (−1)^neg × m × 2^e, with a signed zero (R29, R31). -/
inductive Num where
  | nan
  | inf (neg : Bool)
  | fin (neg : Bool) (m : Nat) (e : Int)
deriving DecidableEq, Repr

/-- The parameters of a product: formats, signedness, tile size, window, ceiling, product scaling, draw identity and heel
row (R89, R113). -/
structure Dot where
  mf : Nat
  sf : Nat
  af : Nat
  um : Bool
  us : Bool
  k : Nat
  n : Nat
  win : Nat
  ceil : Int
  neg : Bool
  pexp : Int
  tid : BitVec 16
  hrow : Nat
  start : Bool
  careful : Bool
deriving DecidableEq, Repr

/-- A column sum that has passed its residue check (R94 to R97, R110): its value, how many of its products exceeded the
ceiling it was formed under, and how far careful mode raised that ceiling. -/
structure ColSum where
  v : Num
  exc : Nat
  j : Nat
deriving DecidableEq, Repr

/-- A write that a beat of a chain has still to make: an accumulator of the heel by byte offset and size, or a lane of a
vector register by register × 256 + lane (R135). -/
inductive LateWrite where
  | heel (off b x : Nat)
  | lane (k : Nat) (x : BitVec 32)
deriving DecidableEq, Repr

/-- A request of a stream in stream order (R155): its first element and element count, its tag and use count, the
packets still to be acknowledged (R298), whether it is answered, the bytes it carries and how it failed, its staging
block while it holds one: whether that came from the shared pool (R230), and where it is local the units it reaches, each with
the unit epoch in force as it was accepted (R484). -/
structure Req where
  first : Nat
  cnt : Nat
  tag : Nat
  uc : BitVec 4
  need : Nat
  done : Bool
  data : List Byte
  status : Status
  blk : Option Bool := some false
  via : List (Nat × BitVec 4) := []
deriving DecidableEq, Repr

/-- A stream register (R151) and the stream it runs: its instruction, offset, next element to request, requests not yet
moved or acknowledged, a failure that is not a request's own (R153 to R165), and whether it wrote a poisoned word in part (R518). -/
structure Stream where
  addr : Word
  ctl : Word
  stride : List Word
  count : List (BitVec 32)
  resv : List (BitVec 32)
  active : Bool
  id : Nat
  off : Word
  next : Nat
  reqs : List Req
  failed : Option Status
  soft : Bool := false
deriving DecidableEq, Repr

/-- A tile bank (R86): empty, or loaded with a pair, K, N and signedness; elements by k × 1024 + o and V4 block scales
by b × 1024 + o. -/
structure Bank where
  loaded : Bool
  sfmt : BitVec 4
  afmt : BitVec 4
  k : Nat
  n : Nat
  usta : Bool
  elems : SMap (BitVec 16)
  scales : SMap Byte
deriving DecidableEq, Repr

/-- Near-memory commands (R205). -/
inductive NmOp where
  | opt | gather | scatter | shuffle | reduce | quant | dequant | amax
deriving DecidableEq, Repr

/-- Collective operations (R214); vote is the region vote of R333. -/
inductive ClOp where
  | ar | rs | ag | a2a | bc | bar | vote
deriving DecidableEq, Repr

/-- The instructions that enter an engine queue (R57). -/
inductive EngOp where
  | stRing | stDesc | stGo
  | nm (f : NmOp)
  | mxLoad | mxPass | mxAg | mxRs | mxRstat
  | mvDot
  | vxChain | vxPerm | vxPerm2 | vxShuf | vxCmpr | vxExpd | vxPack | vxUnpk | vxMset | vxSplat | vxFlags
  | cl (f : ClOp)
  | agSide | rsSide
deriving DecidableEq, Repr

/-- An issued engine instruction (R57 to R60): its number, operand bits, scalars read at issue, address, predicate. -/
structure QEntry where
  id : Nat
  op : EngOp
  w : BitVec 48
  a : Word
  b : Word
  c : Word
  pc : Word
  act : Bool
deriving DecidableEq, Repr

/-- How far a started instruction has come: rows and beats entered, the feed list's entry and the rows left of it, the
rows held in a row store (R115), bytes taken from its input rings and not yet used, its
descriptor's bytes, bytes made for its output rings and not yet in a slot, the reduction so far, whether its input
stream has ended, how it failed, its flags, and whether it met an overflow or made NaN. Elements are held as encodings.
Of a pass also: the product it forms, moving elements taken and not yet presented (R102), the replay buffer with the rows
presented, newest first, and the recompute list by row and column (R109), the rows in the grid, oldest first, with their
column sums (none: withheld), the heel adds made of the oldest, and whether a bad heel element has ended its emitting
(R101). late holds the writes of a chain's beats by the number of the beat from which they are seen (R135); soft tells that
it wrote a poisoned word in part (R518). -/
structure Progress where
  row : Nat
  beat : Nat
  fent : Nat
  fleft : Nat
  rows : List (List Nat)
  got : List Byte
  got1 : List Byte
  desc : List Byte
  out : List Byte
  out1 : List Byte
  acc : Option (BitVec 32)
  stop : Bool
  fail : Option Status
  flags : BitVec 5
  ovf : Bool
  nan : Bool
  dot : Option Dot := none
  rest : List Nat := []
  replay : List (Nat × List Nat) := []
  recomp : List (Nat × Nat) := []
  flight : List (Nat × List (Option ColSum)) := []
  adds : Nat := 0
  mute : Bool := false
  late : List (Nat × List LateWrite) := []
  soft : Bool := false
deriving DecidableEq, Repr

/-- A started instruction: its progress, the hardware errors it will meet, and its status once it has ended. -/
structure RunEntry where
  e : QEntry
  hw : HwFault
  g : Progress
  status : Option Status
deriving DecidableEq, Repr

/-- One engine queue: instructions placed and not started, at most 16, and those started and not completed (R57). -/
structure Queue where
  waiting : List QEntry
  running : List RunEntry
deriving DecidableEq, Repr

/-- What holds issue (R202). -/
inductive Hold where
  | none
  | line (l : BitVec 58)
  | place (q : QueueId) (e : QEntry)
  | semWait (sd : BitVec 6) (sem : BitVec 6) (k : BitVec 16)
  | fence (mask : BitVec 5)
  | lyrOpen (sa : Word)
  | lyrClose (sd : BitVec 6)
  | closing (sd : BitVec 6)
  | stepVote
  | stepCommit (sd : BitVec 6)
  | commitWait (sd : BitVec 6)
  | halt (imm : BitVec 16)
deriving DecidableEq, Repr

/-- What LYR.OPEN saves (R78). -/
structure Snapshot where
  s : Vector Word 64
  p : Vector Bool 8
  v : SMap (BitVec 32)
  m : Vector (BitVec 256) 8
  sem : Vector Sem 64
  st : Vector Stream 16
  seq : SMap (BitVec 16)
  pc : Word
deriving DecidableEq, Repr

/-- The open layer region (R77 to R80): its descriptor, repeat index, what its work has shown so far, its vote once
known, its local outcome code (0 clean, 1 repeat, 2 exhausted, 3 dirty) and the snapshot. -/
structure Region where
  id : BitVec 16
  vote : Bool
  careful : Bool
  limit : BitVec 4
  voteComm : Comm
  rd : List (Word × Word)
  wr : List (Word × Word)
  r : BitVec 4
  first : Option Status
  nan : Bool
  overflow : Bool
  voteResult : Option (Status × BitVec 8)
  snap : Snapshot
deriving DecidableEq, Repr

/-- The program-visible state and the engines of one core (R52). Vector registers by register × 256 + lane. -/
structure CoreArch where
  s : Vector Word 64
  p : Vector Bool 8
  v : SMap (BitVec 32)
  m : Vector (BitVec 256) 8
  sem : Vector Sem 64
  ring : Vector Ring 16
  st : Vector Stream 16
  bank : Vector Bank 2
  heel : Memory
  heelPoison : NatSet
  statMax : SMap (BitVec 32)
  statSum : SMap (BitVec 32)
  pc : Word
  scratch : Memory
  scratchPoison : NatSet
deriving DecidableEq, Repr

/-- The registers of one core (R69 to R74, R138, R166, R167, R178, R179). -/
structure CoreRegs where
  entry : BitVec 61
  arg : Word
  level : BitVec 8
  voter : Bool
  run : CoreRun
  regionId : BitVec 16
  lastStatus : Status
  faultCause : BitVec 8
  haltCode : BitVec 16
  health : BitVec 8
  faultPc : BitVec 61
  nanRow : BitVec 16
  nanLane : BitVec 8
  nanStage : BitVec 4
  vxFlags : BitVec 5
  rto : BitVec 16
  lto : BitVec 8
  srkey : Word
  srepoch : BitVec 32
deriving DecidableEq, Repr

/-- One core. flags are the step flags STEP.VOTE reads (R73, R82); flagsHeld those R521 holds for the seal; updates are
update_nonfinite in bit 0 and update_fail in bit 1 (R357); voteWord and sealWord what
the core has contributed to the part's flag round and seal round and the part has not sent; isVoter the voter bit of the last accepted launch; voted
and sealed whether it contributed to this attempt; voteSince whether it has voted since launch or its last STEP.COMMIT; ended
whether the last attempt it voted in that was decided was committed (R364, R365);
resetFault the core_fault a core reset holds (R486); stopping a stop that waits for started
instructions (R67); cycles the ACLK cycles since launch, in hundredths; window, clean
and opened the remote window of R162, opened holding for each change of it how many of its next w completions are to come
and whether a decrease fell among them; tags the tags held, by stream and request; seq the sequence counters by
communicator (R215); packs the pack sequence number (R181); vxProg the program's sticky flags (R137); stale the words of
scratch that stores changed while instructions waited to start, newest first: the number of the next instruction at the
store, the word and its bytes before (R203); code the bytes of the lines in ibuf, as they were fetched (R53). level is the numerics level of the last accepted launch (R51, R71); lastGrant
the stream register that each tag pool granted last (R156). -/
structure CoreSt where
  arch : CoreArch
  reg : CoreRegs
  mx : Queue
  mv : Queue
  vx : Queue
  stq : Queue
  cl : Queue
  hold : Hold
  region : Option Region
  nextId : Nat
  ibuf : List (BitVec 58)
  flags : BitVec 8
  flagsHeld : BitVec 8
  updates : BitVec 2
  voteWord : BitVec 16
  sealWord : BitVec 16
  isVoter : Bool
  voted : Bool
  sealed : Bool
  voteSince : Bool
  ended : Bool := false
  resetFault : Bool
  stopping : Bool
  phase : UnitPhase
  cycles : Nat
  window : Nat
  clean : Nat
  opened : List (Nat × Bool)
  tagUse : Vector (BitVec 4) 128
  tags : List (Nat × Nat × Nat)
  seq : SMap (BitVec 16)
  packs : Nat
  vxProg : BitVec 5
  stale : List (Nat × Nat × List Byte)
  code : List (BitVec 58 × List Byte) := []
  level : BitVec 8 := 1
  lastGrant : Vector (Fin 16) 3 := Vector.replicate 3 15
deriving DecidableEq, Repr

/-- Occupancy of one Welt class (R227, R248): blocks used, those of them from the shared pool, the peak, and how many of the
reservation each owner of a guaranteed share holds (R228). -/
structure ClassUse where
  used : Nat
  shared : Nat
  peak : Nat
  held : SMap Nat := []
deriving DecidableEq, Repr

/-- Who takes a staging block (R17, R226): a stream register of a core, the next packet of a channel at a port's input, a
stack, the Clicker, or the control complex. -/
inductive BlockUser where
  | stream (n : Core) (t : Fin 16)
  | input (p : Port) (vc : Nat)
  | stack (k : StackId)
  | clicker
  | control
deriving DecidableEq, Repr

/-- A request for a staging block: who takes it, and the number of the owner whose guaranteed share it counts in: a core, 16
the inbound requests, 16 + k stack k, or a virtual channel (R227, R228). -/
structure BlockWait where
  user : BlockUser
  owner : Nat
deriving DecidableEq, Repr

/-- A reservation and cap (R247). -/
structure ClassRes where
  res : BitVec 18
  cap : BitVec 18
deriving DecidableEq, Repr

/-- The Welt (R222 to R248): contents by offset, poisoned 16 B words, the written registers and the configuration in
effect, the occupancy, and for each class the requests that wait for a block in arrival order, the blocks granted to one
and not yet taken with whether they came from the shared pool, and the port granted last (R227); and the beats that the
patrol scrub has read of each bank in the present sweep (R237). -/
structure Welt where
  mem : Memory
  poison : NatSet
  lastStatus : Status
  cfgErr : BitVec 4
  scrubEn : Bool
  area : BitVec 12
  areaOn : BitVec 12
  res : Vector ClassRes 7
  resOn : Vector ClassRes 7
  fwdvc : Vector Byte 8
  fwdvcOn : Vector Byte 8
  use : Vector ClassUse 7
  wait : Vector (List BlockWait) 7
  granted : Vector (List (BlockWait × Bool)) 7
  lastPort : Vector Nat 7
  ue : BitVec 16
  ce : BitVec 16
  eccWord : BitVec 25
  eccValid : Bool
  sweeps : BitVec 16
  period : BitVec 16
  beats : SMap Nat
deriving DecidableEq, Repr

/-- INS_STAT.state (R282). -/
inductive StackState where
  | ready | quiescing | resetting | training
deriving DecidableEq, Repr

/-- What a stack's share of a command has formed so far: whether it wrote a poisoned line in part, the count for result, the
running maximum, and for NM.OPT the new weights, gradients, updates, and whether a gradient or a result was not finite
(R260, R267, R271, R276). -/
structure NmSum where
  part : Bool := false
  count : Nat := 0
  amax : BitVec 32 := 0
  ws : List (BitVec 32) := []
  gs : List (BitVec 32) := []
  us : List (BitVec 32) := []
  badG : Bool := false
  badW : Bool := false
deriving DecidableEq, Repr

/-- A near-memory command in a stack's queue (R267): core, its unit epoch when accepted, the instruction, its command
block and, for NM.OPT, its parameter block; the decisions given before it was accepted, whose acts its writes follow (R255);
the anchor address up to which the stack has done its share, what that has formed, and the status it stopped with. -/
structure NmEntry where
  core : Core
  uepoch : BitVec 4
  id : Nat
  op : NmOp
  block : List Byte
  params : List Byte
  no : Nat := 0
  upto : Nat := 0
  sum : NmSum := {}
  stop : Option Status := none
deriving DecidableEq, Repr

/-- A stack's epoch table and records (R249, R254 to R256, R372): granules whose committed copy is the twin, granules written
since the decision, granules whose records are left to settle, and those whose former copies a commit keeps. -/
structure EpochTable where
  twin : NatSet
  written : NatSet
  unsettled : NatSet
  former : NatSet
deriving DecidableEq, Repr

/-- One Insole stack (R249 to R285): DRAM by stack offset, poisoned lines, the epoch table, and the copy of it in the
maintenance area while the logic die resets (R277); the decisions received and not yet acted on, oldest first (true commit),
and the epoch writes accepted after one of them, with the number of decisions they follow (R255); the command queue; the
corrected symbols of each die and wire that count toward its mark, with their line and time, and the marks (R259). A wire is
numbered channel × 80 + its symbol. -/
structure Stack where
  dram : Memory
  poison : NatSet
  table : EpochTable
  maint : EpochTable
  decisions : List Bool
  late : List (Nat × List (Nat × Byte))
  queue : List NmEntry
  scrubPeriod : BitVec 16
  scrubEn : Bool
  lastStatus : Status
  spareRows : Byte
  dieHits : List (Nat × Nat × Word)
  wireHits : List (Nat × Nat × Word)
  erasedWires : NatSet
  erasedDies : BitVec 16
  throttle : BitVec 3
  temp : Byte
  uepoch : BitVec 4
  state : StackState
  clearing : Bool
  ue : BitVec 16
  ce : BitVec 16
  eccLine : BitVec 30
  eccValid : Bool
  srkey : Word
  srepoch : BitVec 32
deriving DecidableEq, Repr

/-- An epoch range register (R281). -/
structure Epr where
  base : BitVec 29
  count : BitVec 29
deriving DecidableEq, Repr

/-- The Insole map: INS_CTRL.cfg_err, INS_MAP and INS_EPRn of stack 0, as written and as applied (R252, R280, R281). -/
structure InsMap where
  cfgErr : BitVec 4
  sigma : BitVec 6
  lambda : BitVec 6
  epr : Vector Epr 8
  sigmaOn : BitVec 6
  lambdaOn : BitVec 6
  eprOn : Vector Epr 8
deriving DecidableEq, Repr

/-- Link states (R289, R326). -/
inductive LinkState where
  | down | training | identify | quarantine | up | fenced
deriving DecidableEq, Repr

/-- One fabric port (R286 to R294, R325 to R328): state, registers, the Last's entry, the partner's latest frame, the
packets in its input places by virtual channel, the credits held for the next hop and those returned to the sender since it
entered UP (R306), the source each channel last granted (an input, or 8 for local injection), the channel last granted
(R307), and the last packet and identity frame sent. -/
structure FabPort where
  state : LinkState
  reason : BitVec 4
  width : BitVec 4
  lanesOk : Byte
  ver : BitVec 4
  farLane : BitVec 4
  farCsym : BitVec 16
  fwGen : BitVec 16
  auto : Bool
  disable : Bool
  downs : BitVec 16
  drop : BitVec 16
  fecUe : BitVec 16
  crc : BitVec 16
  last : Word
  part : Word
  partx : Word
  heard : Bool
  accept : Bool
  peerFenced : Bool
  inq : List (Nat × Packet)
  credit : Vector Nat 8
  returned : Vector Nat 8
  granted : Vector Nat 8
  lastVc : Nat
  tx : Option Packet
  frame : List Byte
deriving DecidableEq, Repr

/-- A fence table entry (R324). -/
structure FenceEntry where
  token : BitVec 24
  valid : Bool
  coord : Coord
deriving DecidableEq, Repr

/-- The torus fabric (R286 to R328): topology and lanes as written and as applied, fence, counters, the packets in FWD
blocks with their input, output port and channel, packets waiting for local injection with theirs, and inbound requests
accepted whose reply has not left, with how the write went and the epoch of their unit; and those inbound requests and
replies whose block came from the shared pool (R230). -/
structure Fabric where
  lastStatus : Status
  cfgErr : BitVec 4
  injectStop : Bool
  extD : Byte
  extP : Byte
  extC : Byte
  extT : Byte
  d : Byte
  p : Byte
  c : Byte
  t : Byte
  lanes : BitVec 16
  lanesOn : BitVec 16
  extOn : Vector Byte 4
  thresh : Byte
  tokenReg : BitVec 24
  token : BitVec 24
  fenced : Bool
  ftblFull : BitVec 16
  discRoute : BitVec 16
  discFenced : BitVec 16
  discBad : BitVec 16
  ftbl : Vector FenceEntry 16
  port : Vector FabPort 8
  fwd : List (Nat × Nat × Nat × Packet)
  inject : List (Nat × Nat × Packet)
  inbound : List (Packet × Status × BitVec 4)
  pooled : List Packet
deriving DecidableEq, Repr

/-- What a member holds for sending to one destination on one axis and direction (R342): credits spent, how far the
window lies below c, credits to come before it may be halved again, and unmarked credits since it last rose. -/
structure Flow where
  spent : Nat
  cut : Nat
  wait : Nat
  run : Nat
deriving DecidableEq, Repr

/-- Credits to return to one source on one axis and direction: how many, whether a chunk of theirs came marked, and the
repeat index and sequence number of the last (R336, R342). -/
structure Debt where
  count : Nat
  echo : Bool
  r : BitVec 2
  seq : BitVec 16
deriving DecidableEq, Repr

/-- A communicator: its written registers (R354, R355), the configuration in effect, its held packets (R334), and its
flows and debts by coordinate × 4 + axis × 2 + direction (R342). -/
structure CommSt where
  comm : Word
  slots : BitVec 16
  on : Option (Word × BitVec 16)
  heldChunks : List Packet
  heldCtrl : List Packet
  flows : SMap Flow
  debts : SMap Debt
  ended : List (BitVec 16 × BitVec 2) := []
deriving DecidableEq, Repr

/-- A chunk received: its key, its data, whether it came marked (R342), and whether its slot is released. -/
structure Got where
  key : ChunkKey
  data : List Byte
  mark : Bool
  freed : Bool
deriving DecidableEq, Repr

/-- An active collective (R333 to R349): its instruction, key, the descriptor fields still needed, the vote value of a
region vote, its input (for CL.A2A the pieces it sends, for MX.RS the rows handed over so far), the chunks received and
sent, the control packets received by phase and position with their values, the REREQs sent for each chunk, the bytes
an all-gather has put into its ring, the entries dropped, whether a write met poison, and whether identities stand in for
its own elements (R370). -/
structure Active where
  core : Core
  id : Nat
  comm : Comm
  seq : BitVec 16
  r : BitVec 2
  sig : BitVec 16
  op : ClOp
  fused : Bool
  axes : BitVec 2
  red : BitVec 2
  norm : Bool
  efmt : BitVec 4
  root : Nat
  width : Nat
  count : Nat
  dst : Nat
  cap : Nat
  normAddr : Nat
  desc : Nat
  vote : Byte
  input : List Byte
  got : List Got
  sent : List ChunkKey
  ctrl : List (Bool × Nat × Byte)
  asked : List (ChunkKey × Nat)
  fed : Nat
  drops : Nat
  bad : Bool
  shadow : Bool
deriving DecidableEq, Repr

/-- The collective engine (R329 to R355). -/
structure Coll where
  cdef : Comm
  lastStatus : Status
  cfgErr : BitVec 4
  cto : BitVec 16
  rereq : BitVec 16
  timeouts : BitVec 16
  seqMm : BitVec 16
  dropped : BitVec 16
  comms : SMap CommSt
  active : List Active
deriving DecidableEq, Repr

/-- A step decision (R377). -/
inductive Decision where
  | none | commit | abort
deriving DecidableEq, Repr

/-- The step protocol (R356 to R380): registers as written and as taken at the flag round, the rounds' progress (phase,
the word so far, the words received by peer), packets kept for re-sending and packets held for later phases, RESENDs
sent to each peer, the digest, and the digests received by sender with the number of their epoch and attempt; and how many
decisions the stacks have been given. -/
structure StepUnit where
  vgid : BitVec 16
  vto : BitVec 16
  autoAbort : Bool
  grp : BitVec 32
  vgidOn : BitVec 16
  vtoOn : BitVec 16
  autoOn : Bool
  grpOn : BitVec 32
  attempt : Byte
  flagWord : BitVec 16
  sealWord : BitVec 16
  lastStatus : Status
  decision : Decision
  sealDone : Bool
  flagDone : Bool
  flagSent : Bool
  sealSent : Bool
  sealing : Bool
  phase : Nat
  word : BitVec 16
  got : List (Coord × BitVec 16)
  resends : List (Coord × Nat)
  kept : List Packet
  held : List Packet
  decided : Option (BitVec 32 × Byte)
  committing : Option Bool
  given : Nat
  peer : BitVec 16
  matched : Byte
  mismatches : Byte
  shStatus : Status
  mode : BitVec 2
  modeOn : BitVec 2
  digest : Word
  digestAcc : Word
  digestGot : List (Coord × Word × Word)
deriving DecidableEq, Repr

/-- A batch of the shuffle pool (R405). -/
inductive BatchState where
  | free | filling | ready
deriving DecidableEq, Repr

/-- ING_STAT.state (R412). -/
inductive LoaderState where
  | idle | filling | full | stalled | stopped
deriving DecidableEq, Repr

/-- An Ethernet port (R383 to R390, R415): its register fields, the priorities a PFC frame paused, those it has sent XOFF
on, its reset phase and epoch, and the last frame sent. -/
structure EthPort where
  fecCorr : BitVec 16
  rxDrop : BitVec 16
  pfcTx : BitVec 16
  lossless : Byte
  up : Bool
  disable : Bool
  paused : Byte
  xoff : Byte
  phase : UnitPhase
  tx : List Byte
deriving DecidableEq, Repr

/-- A RoCEv2 connection in use (R387, R388): next packet sequence number, requests outstanding with their segment
offsets and lengths, retries, error state, whether a congestion notification is due, and when the last was sent; and, of each
block the outstanding reads hold, oldest first, whether it came from the shared pool (R230); and its entry, as it was read at
its first use. -/
structure RoceConn where
  psn : BitVec 24
  reads : List (Nat × Nat)
  retries : Nat
  error : Bool
  used : Bool
  cnp : Bool
  cnpAt : Option Word := none
  blocks : List Bool := []
  entry : List Byte := []
deriving DecidableEq, Repr

/-- The Clicker (R383 to R415): the registers, the values taken at go (gRps and gZ the records per sample and bytes per record
they give), the batches, the segments of the batch being filled whose records are written (doneSegs), how many have been read
(readSegs), those in decode with their bytes, how many bytes have come for the segment being read and those bytes, the number
of the step attempt whose loader position is to be written next (R392), the audio count, the ING blocks held, and the semaphore
signals put off until a region closes. -/
structure Clicker where
  lastStatus : Status
  cfgErr : BitVec 4
  batch : BitVec 16
  comm : Comm
  nbatch : BitVec 4
  sem : BitVec 6
  entries : BitVec 30
  seed : Word
  tbl : BitVec 58
  prof : BitVec 58
  pool : BitVec 58
  conn : BitVec 58
  pos : BitVec 58
  gBatch : BitVec 16
  gComm : Comm
  gNbatch : BitVec 4
  gSem : BitVec 6
  gEntries : BitVec 30
  gSeed : Word
  gTbl : BitVec 58
  gPool : BitVec 58
  gConn : BitVec 58
  gPos : BitVec 58
  gProf : List Byte
  gRps : Nat
  gZ : Nat
  start : Word
  startEpoch : BitVec 32
  fillEpoch : BitVec 32
  stallConn : BitVec 12
  tsErr : BitVec 12
  state : LoaderState
  stopping : Bool
  audio : Word
  slots : List BatchState
  doneSegs : NatSet
  segBytes : Nat
  posNo : Nat
  segData : List Byte := []
  readSegs : Nat := 0
  decode : List (Nat × List Byte) := []
  conns : SMap RoceConn
  held : Nat
  later : Nat
  port : Vector EthPort 8
deriving DecidableEq, Repr

/-- A frame ring (R429, R430). -/
structure FrameRing where
  base : BitVec 48
  lslots : BitVec 4
  drops : BitVec 16
  head : BitVec 16
  tail : BitVec 16
deriving DecidableEq, Repr

/-- A line in the harts' caches (R416): its number, whether it is the copy that stores to an epoch granule go to, whether it is
dirty, and its 64 B (R417, R421). -/
structure CacheLine where
  line : Nat
  next : Bool
  dirty : Bool
  data : List Byte
deriving DecidableEq, Repr

/-- A write-back not yet acknowledged: the hart whose CBO sent it, none for an eviction, the line and its 64 B (R420). -/
structure WriteBack where
  hart : Option Hart
  line : Nat
  data : List Byte
deriving DecidableEq, Repr

/-- A hart as it is released: its program counter, a0 and a1, and whether it is in machine mode (R422). -/
structure HartStart where
  pc : Word
  a0 : Word
  a1 : Word
  machine : Bool
deriving DecidableEq, Repr

/-- The control complex (R416 to R431, R491): interrupts, host region, frame rings, its reset phase and epoch, whether
its harts run and how each was released, for each hart the last value loaded and whether its last access raised a fault, the
lines in the harts' caches, and the write-backs not yet acknowledged, oldest first. -/
structure Control where
  pend : BitVec 32
  hostGib : BitVec 5
  rx : FrameRing
  tx : FrameRing
  irqEn : Vector (BitVec 32) 24
  running : Bool
  phase : UnitPhase
  load : Vector Word 24
  accessFault : Vector Bool 24
  faultAddr : Vector Word 24
  harts : Vector HartStart 24
  cache : List CacheLine
  wb : List WriteBack
deriving DecidableEq, Repr

/-- An event record (R449), less its CRC, which is computed from the rest. -/
structure EvRec where
  seq : Nat
  time : Word
  code : BitVec 16
  severity : Byte
  status : Status
  cls : Byte
  dev : BitVec 16
  data : Word
  count : BitVec 32
deriving DecidableEq, Repr

/-- A boot record copy (R438): sequence number, active slot (false A), pending slot, tries, and whether its CRC is
good. -/
structure BootRec where
  seq : Nat
  activeB : Bool
  pending : Option Bool
  tries : Nat
  good : Bool
deriving DecidableEq, Repr

/-- A management session (R453): open, and of class O. -/
structure Session where
  isOpen : Bool
  operator : Bool
deriving DecidableEq, Repr

/-- A management reply (R454): command, tag, status, detail, payload. -/
structure Reply where
  code : BitVec 16
  tag : BitVec 16
  status : Status
  detail : Byte
  payload : List Byte
deriving DecidableEq, Repr

/-- CBL_MBSTAT.state (R460). -/
inductive MailState where
  | idle | busy | reply | reset
deriving DecidableEq, Repr

/-- Cobbler (R432 to R461): fuses, boot records, image slots (false A), certificate chain, the running image, the
update's owner, measurement registers, event ring and mirror, sessions and last replies, the mailbox, and the sensors
and counts behind R452, with the sensors whose warning holds, by number. -/
structure Cobbler where
  fuses : Memory
  boot : Vector BootRec 2
  slotA : Memory
  slotB : Memory
  certs : List Byte
  runningB : Bool
  runningPending : Bool
  unitGen : BitVec 16
  genForce : Nat
  recovery : Bool
  heldReset : Bool
  phase : UnitPhase
  mismatchTimes : List Word
  update : Option Client
  meas : Vector (BitVec 512) 8
  nextSeq : Nat
  ring : List EvRec
  unmirrored : List EvRec
  mirror : List EvRec
  sessions : Vector Session 4
  replies : Vector (Option Reply) 4
  lastStatus : Status
  mbState : MailState
  rspStatus : Status
  uepoch : BitVec 4
  mbReq : Vector Word 32
  mbRsp : Vector Word 32
  pieces : Option (Reply × Nat)
  notices : List (BitVec 16)
  sensors : Sensors
  dieHot : Nat
  powerOver : Nat
  limiting : Bool
  warned : List Nat
deriving DecidableEq, Repr

/-- Part states (R466). -/
inductive PartState where
  | off | standby | boot | ready | joined | active | fenced | frozen | fault
deriving DecidableEq, Repr

/-- Cluster gating states (R479). -/
inductive Gate where
  | on | clockGated | powerGated | waking
deriving DecidableEq, Repr

/-- Clocks, power and resets (R462 to R480, R489, R490) and the pins of R511. time is the counter in ns × 2^32;
upStep the start-up step to run next; unitCode what start-up has written into the units at their load addresses, by component
type (R16, R439, R441); unitsUp whether start-up has brought the units into service (R504); stages whether the on-package stages
are on; lock whether the fast PLLs are locked; contentsLost whether a die reset has left the Welt, scratch and the stacks
undefined and start-up has not yet written them (R470, R471). -/
structure Clocks where
  state : PartState
  prev : PartState
  jobStatus : Status
  cclkLim : Byte
  cclk : Byte
  aclkLim : BitVec 5
  aclk : BitVec 5
  gate : Vector Gate 4
  policy : Byte
  policyOn : Byte
  time : BitVec 96
  adj : BitVec 32
  locked : Bool
  coreEpoch : Vector (BitVec 4) 16
  ethEpoch : Vector (BitVec 4) 8
  ctxEpoch : BitVec 4
  upStep : Nat
  unitsUp : Bool := false
  unitCode : SMap Memory := []
  stages : Bool
  lock : Bool
  rref : Bool
  dieReset : Bool
  target : Bool
  frzN : Bool
  frzDrive : Bool
  rstN : Bool
  faultN : Bool
  alertN : Bool
  thermtripN : Bool
  unitsHeld : List Nat
  contentsLost : Bool := false
deriving DecidableEq, Repr

/-- A numerics log record (R173): core, region, repeat index, instruction address, event kind (0 ceiling, 1 heel, 2
emit, 3 chain OF, 4 first residue mismatch, 5 careful recompute, 6 NaN origin), row, column or lane, stage, format or
ceiling, and further overflows; id is the issue number of the instruction. -/
structure NumRec where
  core : Core
  id : Nat
  region : BitVec 16
  r : BitVec 4
  pc : Word
  kind : Nat
  row : Nat
  col : Nat
  stage : Nat
  what : Int
  more : Nat
deriving DecidableEq, Repr

/-- A trace record (R201). -/
structure TraceRec where
  core : Core
  imm : BitVec 16
  pc : Word
  region : BitVec 16
  cycles : Word
deriving DecidableEq, Repr

/-- The Awl (R21, R173, R201, R372, R381, R382, R481, R482): freeze and replay registers, numerics log, trace records,
records and health increments held for Cobbler, and the health counters by source, cause class and unit. -/
structure Awl where
  onVote : Bool
  onNan : Bool
  onResidue : Bool
  onFault : Bool
  frzCause : Byte
  frzUnit : BitVec 4
  frzTime : Word
  frzBy : Byte
  rewStatus : Status
  snapValid : Bool
  rplrec : Vector Word 8
  numLog : List NumRec
  nlog : BitVec 16
  trace : List TraceRec
  held : List EvRec
  lost : Nat
  health : SMap Nat
  healthNew : SMap Nat
deriving DecidableEq, Repr

/-- The part and the queue of commands that wait, first in, first out. freeCtr numbers the free values drawn so far; it
is the model's own field. -/
structure State where
  cores : Vector CoreSt 16
  welt : Welt
  stack : Vector Stack 24
  ins : InsMap
  fab : Fabric
  coll : Coll
  step : StepUnit
  ing : Clicker
  ctx : Control
  cbl : Cobbler
  clk : Clocks
  awl : Awl
  freeCtr : Nat
  pending : List Instr
deriving DecidableEq, Repr

/-! ### Reset values: the Reset columns of the register tables (R12) and, where the spec gives none, zero or empty as
the assumption log says. -/

/-- Count 0, status OK (R66). -/
def Sem.reset : Sem := { count := 0, status := .ok }

/-- An EMPTY slot (R146). -/
def Slot.reset : Slot := { st := .empty, cnt := 0, eos := false, owner := 0 }

/-- Ring n as a launch sets it: 16 EMPTY slots at base offset n × 64 KiB (R144). -/
def Ring.reset (n : Nat) : Ring :=
  { base := BitVec.ofNat 11 (16 * n), nslots := 16, slots := List.replicate 16 Slot.reset, head := 0, tail := 0
    rpos := 0, failed := none, prod := none, cons := none }

/-- A stream register of zeros, inactive. -/
def Stream.reset : Stream :=
  { addr := 0, ctl := 0, stride := List.replicate 5 0, count := List.replicate 5 0, resv := List.replicate 5 0
    active := false, id := 0, off := 0, next := 0, reqs := [], failed := none }

/-- An empty tile bank (R66, R86). -/
def Bank.reset : Bank :=
  { loaded := false, sfmt := 0, afmt := 0, k := 0, n := 0, usta := false, elems := [], scales := [] }

/-- An engine queue with nothing in it. -/
def Queue.reset : Queue := { waiting := [], running := [] }

/-- No fields written yet. -/
def Progress.zero : Progress :=
  { row := 0, beat := 0, fent := 0, fleft := 0, rows := [], got := [], got1 := [], desc := [], out := []
    out1 := [], acc := none, stop := false, fail := none, flags := 0, ovf := false, nan := false }

/-- The program-visible state of a core after die reset: the launch values of R66, with pc and scalars zero. -/
def CoreArch.reset : CoreArch :=
  { s := Vector.replicate 64 0
    p := Vector.ofFn fun i => decide (i.val = 0)
    v := [], m := Vector.replicate 8 0, sem := Vector.replicate 64 Sem.reset
    ring := Vector.ofFn fun i => Ring.reset i.val
    st := Vector.replicate 16 Stream.reset, bank := Vector.replicate 2 Bank.reset
    heel := [], heelPoison := [], statMax := [], statSum := [], pc := 0, scratch := [], scratchPoison := [] }

/-- The Reset columns of R69 to R74, R138, R166, R167, R178 and R179. -/
def CoreRegs.reset : CoreRegs :=
  { entry := 0, arg := 0, level := 1, voter := true, run := .idle, regionId := 0, lastStatus := .ok, faultCause := 0
    haltCode := 0, health := 0, faultPc := 0, nanRow := 0, nanLane := 0, nanStage := 0, vxFlags := 0, rto := 0xC7
    lto := 0x13, srkey := 0, srepoch := 0 }

/-- A core that nothing has launched. -/
def CoreSt.reset : CoreSt :=
  { arch := CoreArch.reset, reg := CoreRegs.reset, mx := Queue.reset, mv := Queue.reset, vx := Queue.reset
    stq := Queue.reset, cl := Queue.reset, hold := .none, region := none, nextId := 0, ibuf := [], flags := 0
    flagsHeld := 0, updates := 0, voteWord := 0, sealWord := 0, isVoter := false, voted := false, sealed := false, voteSince := false
    resetFault := false, stopping := false, phase := .service, cycles := 0, window := 32, clean := 0, opened := []
    tagUse := Vector.replicate 128 0, tags := [], seq := [], packs := 0, vxProg := 0, stale := [] }

/-- A class with no block held. -/
def ClassUse.reset : ClassUse := { used := 0, shared := 0, peak := 0 }

/-- The reservations and caps of R232, in class order. -/
def ClassRes.default : Vector ClassRes 7 :=
  #v[{ res := 768, cap := 4096 }, { res := 768, cap := 4096 }, { res := 512, cap := 4096 }, { res := 8192, cap := 0 },
     { res := 2048, cap := 16384 }, { res := 9216, cap := 32768 }, { res := 64, cap := 1024 }]

/-- The Welt after reset (R232, R240 to R248). -/
def Welt.reset : Welt :=
  { mem := [], poison := [], lastStatus := .ok, cfgErr := 0, scrubEn := true, area := 0x400, areaOn := 0x400
    res := ClassRes.default, resOn := ClassRes.default, fwdvc := Vector.replicate 8 0x40
    fwdvcOn := Vector.replicate 8 0x40, use := Vector.replicate 7 ClassUse.reset, wait := Vector.replicate 7 []
    granted := Vector.replicate 7 [], lastPort := Vector.replicate 7 45, ue := 0, ce := 0, eccWord := 0, eccValid := false, sweeps := 0, period := 0x76C, beats := [] }

/-- An epoch table with nothing in the twins, nothing written and nothing to settle (R252, R520). -/
def EpochTable.fresh : EpochTable := { twin := [], written := [], unsettled := [], former := [] }

/-- One stack after reset (R279 to R285). -/
def Stack.reset : Stack :=
  { dram := [], poison := [], table := EpochTable.fresh, maint := EpochTable.fresh, decisions := [], late := [], queue := []
    scrubPeriod := 0x1F4, scrubEn := true, lastStatus := .ok, spareRows := 0, dieHits := [], wireHits := []
    erasedWires := [], erasedDies := 0, throttle := 0, temp := 0, uepoch := 0, state := .ready, clearing := false, ue := 0, ce := 0, eccLine := 0
    eccValid := false, srkey := 0, srepoch := 0 }

/-- An unused range (R281). -/
def Epr.reset : Epr := { base := 0, count := 0 }

/-- The Insole map after reset: no shadow, no local space, no epoch range (R279 to R281). -/
def InsMap.reset : InsMap :=
  { cfgErr := 0, sigma := 0, lambda := 0, epr := Vector.replicate 8 Epr.reset, sigmaOn := 0, lambdaOn := 0
    eprOn := Vector.replicate 8 Epr.reset }

/-- A port after reset: DOWN, disabled, reason 1, auto on (R326 to R328). -/
def FabPort.reset : FabPort :=
  { state := .down, reason := 1, width := 0, lanesOk := 0, ver := 0, farLane := 0, farCsym := 0, fwGen := 0
    auto := true, disable := true, downs := 0, drop := 0, fecUe := 0, crc := 0, last := 0, part := 0, partx := 0
    heard := false, accept := false, peerFenced := false, inq := [], credit := Vector.replicate 8 0
    returned := Vector.replicate 8 0, granted := Vector.replicate 8 8, lastVc := 7, tx := none
    frame := [] }

/-- An empty fence table entry (R324). -/
def FenceEntry.reset : FenceEntry := { token := 0, valid := false, coord := 0 }

/-- The fabric after reset (R316 to R328), with the default lane split 6:4:3:3 in effect. -/
def Fabric.reset : Fabric :=
  { lastStatus := .ok, cfgErr := 0, injectStop := false, extD := 0, extP := 0, extC := 0, extT := 0, d := 0, p := 0
    c := 0, t := 0, lanes := 0x3346, lanesOn := 0x3346, extOn := Vector.replicate 4 0, thresh := 0x20, tokenReg := 0
    token := 0, fenced := false, ftblFull := 0, discRoute := 0, discFenced := 0, discBad := 0
    ftbl := Vector.replicate 16 FenceEntry.reset, port := Vector.replicate 8 FabPort.reset, fwd := [], inject := []
    inbound := [], pooled := [] }

/-- A flow with nothing sent and the window at c. -/
def Flow.reset : Flow := { spent := 0, cut := 0, wait := 0, run := 0 }

/-- Nothing owed. -/
def Debt.reset : Debt := { count := 0, echo := false, r := 0, seq := 0 }

/-- An unconfigured communicator (R354, R355). -/
def CommSt.reset : CommSt :=
  { comm := 0, slots := 0, on := none, heldChunks := [], heldCtrl := [], flows := [], debts := [] }

/-- The collective engine after reset (R351 to R355). -/
def Coll.reset : Coll :=
  { cdef := 0, lastStatus := .ok, cfgErr := 0, cto := 0x1F3, rereq := 0, timeouts := 0, seqMm := 0, dropped := 0
    comms := [], active := [] }

/-- The step protocol after reset (R374 to R382). -/
def StepUnit.reset : StepUnit :=
  { vgid := 0, vto := 0x63, autoAbort := false, grp := 0, vgidOn := 0, vtoOn := 0x63, autoOn := false, grpOn := 0
    attempt := 0, flagWord := 0, sealWord := 0, lastStatus := .ok, decision := .none, sealDone := false
    flagDone := false, flagSent := false, sealSent := false, sealing := false, phase := 0, word := 0, got := []
    resends := [], kept := [], held := [], decided := none, committing := none, given := 0
    peer := 0, matched := 0, mismatches := 0, shStatus := .ok, mode := 0, modeOn := 0, digest := 0, digestAcc := 0
    digestGot := [] }

/-- An Ethernet port after reset: down and disabled (R415). -/
def EthPort.reset : EthPort :=
  { fecCorr := 0, rxDrop := 0, pfcTx := 0, lossless := 0, up := false, disable := true, paused := 0, xoff := 0
    phase := .service, tx := [] }

/-- The Clicker after reset (R409 to R415). -/
def Clicker.reset : Clicker :=
  { lastStatus := .ok, cfgErr := 0, batch := 0, comm := 0, nbatch := 0, sem := 0, entries := 0, seed := 0, tbl := 0
    prof := 0, pool := 0, conn := 0, pos := 0, gBatch := 0, gComm := 0, gNbatch := 0, gSem := 0, gEntries := 0
    gSeed := 0, gTbl := 0, gPool := 0, gConn := 0, gPos := 0, gProf := [], gRps := 0, gZ := 0, start := 0, startEpoch := 0
    fillEpoch := 0, stallConn := 0, tsErr := 0, state := .idle, stopping := false, audio := 0, slots := []
    doneSegs := [], segBytes := 0, posNo := 0, conns := [], held := 0, later := 0, port := Vector.replicate 8 EthPort.reset }

/-- A frame ring after reset (R429, R430). -/
def FrameRing.reset : FrameRing := { base := 0, lslots := 0, drops := 0, head := 0, tail := 0 }

/-- The control complex after reset (R427 to R431), with the host region of an unfused part (R428). -/
def Control.reset : Control :=
  { pend := 0, hostGib := 0x10, rx := FrameRing.reset, tx := FrameRing.reset, irqEn := Vector.replicate 24 0
    running := false, phase := .service, load := Vector.replicate 24 0, accessFault := Vector.replicate 24 false
    faultAddr := Vector.replicate 24 0, harts := Vector.replicate 24 { pc := 0, a0 := 0, a1 := 0, machine := true }
    cache := [], wb := [] }

/-- A boot record that boots slot A with nothing pending (R438). -/
def BootRec.reset : BootRec := { seq := 0, activeB := false, pending := none, tries := 0, good := true }

/-- A closed session (R453). -/
def Session.reset : Session := { isOpen := false, operator := false }

/-- A sample of a cold, unpowered part. -/
def Sensors.zero : Sensors := { diodes := [], stack := [], volts := [], power := 0, stages := [] }

/-- Cobbler after power-on reset with unprogrammed fuses and an empty SPI NOR (R432 to R461). -/
def Cobbler.reset : Cobbler :=
  { fuses := [], boot := Vector.replicate 2 BootRec.reset, slotA := [], slotB := [], certs := [], runningB := false
    runningPending := false, unitGen := 0, genForce := 0, recovery := false, heldReset := false, phase := .service
    mismatchTimes := [], update := none, meas := Vector.replicate 8 0, nextSeq := 0, ring := [], unmirrored := []
    mirror := [], sessions := Vector.replicate 4 Session.reset, replies := Vector.replicate 4 none
    lastStatus := .ok, mbState := .idle, rspStatus := .ok, uepoch := 0, mbReq := Vector.replicate 32 0
    mbRsp := Vector.replicate 32 0, pieces := none, notices := [], sensors := Sensors.zero, dieHot := 0
    powerOver := 0, limiting := false, warned := [] }

/-- Clocks, power and pins when power-on reset begins: the part OFF, start-up step 1 next, the requested target ON,
every pin released (R466, R469, R471, R476 to R480, R489 to R491, R511). -/
def Clocks.reset : Clocks :=
  { state := .off, prev := .off, jobStatus := .ok, cclkLim := 0x20, cclk := 0x20, aclkLim := 0x10, aclk := 0x10
    gate := Vector.replicate 4 .on, policy := 0x55, policyOn := 0x55, time := 0, adj := 0, locked := false
    coreEpoch := Vector.replicate 16 0, ethEpoch := Vector.replicate 8 0, ctxEpoch := 0, upStep := 1, stages := false
    lock := false, rref := false, dieReset := false, target := true, frzN := true, frzDrive := false, rstN := true
    faultN := true, alertN := true, thermtripN := true, unitsHeld := [] }

/-- The Awl after reset (R381, R382, R481, R482). -/
def Awl.reset : Awl :=
  { onVote := false, onNan := false, onResidue := false, onFault := false, frzCause := 0, frzUnit := 0, frzTime := 0
    frzBy := 0, rewStatus := .ok, snapValid := false, rplrec := Vector.replicate 8 0, numLog := [], nlog := 0
    trace := [], held := [], lost := 0, health := [], healthNew := [] }

/-- The machine when power-on reset begins (R470, R471 step 1), with no command waiting. -/
def State.reset : State :=
  { cores := Vector.replicate 16 CoreSt.reset, welt := Welt.reset, stack := Vector.replicate 24 Stack.reset
    ins := InsMap.reset, fab := Fabric.reset, coll := Coll.reset, step := StepUnit.reset, ing := Clicker.reset
    ctx := Control.reset, cbl := Cobbler.reset, clk := Clocks.reset, awl := Awl.reset, freeCtr := 0, pending := [] }

end Sys2Proof.Machine
end

