-- ==== Sys2Proof/Machine/Flags.lean ====
section
/-! DEFINITION. Number formats, conversions, rounding modes, flags and stochastic-rounding draws (R25 to R46, R178 to
R182): every value is held exactly as a sign, a natural mantissa and a power of two. -/

namespace Sys2Proof.Machine

/-- The number formats of R25. -/
inductive Fmt where
  | v16 | v8p | v8r | v4 | a16 | a32 | f32 | int8 | int16
deriving DecidableEq, Repr

/-- The format of a 4-bit code; none when reserved (R25). -/
def Fmt.ofCode (c : Nat) : Option Fmt :=
  match c with
  | 0 => some .v16 | 1 => some .v8p | 2 => some .v8r | 3 => some .v4 | 4 => some .a16 | 5 => some .a32
  | 6 => some .f32 | 7 => some .int8 | 8 => some .int16 | _ => none

/-- Element size in bits (R25). -/
def Fmt.bits (f : Fmt) : Nat :=
  match f with
  | .v16 => 16 | .v8p => 8 | .v8r => 8 | .v4 => 4 | .a16 => 16 | .a32 => 32 | .f32 => 32 | .int8 => 8 | .int16 => 16

/-- Bytes of n elements; V4 elements lie two to a byte (R26, R27). -/
def Fmt.bytes (f : Fmt) (n : Nat) : Nat := (n * f.bits + 7) / 8

/-- Whether the format is an integer format (R25). -/
def Fmt.isInt (f : Fmt) : Bool := f == .int8 || f == .int16

/-- Fraction bits (R28). -/
def Fmt.frac (f : Fmt) : Nat :=
  match f with
  | .v16 => 7 | .v8p => 3 | .v8r => 2 | .v4 => 1 | .a16 => 9 | _ => 23

/-- Bias (R28). -/
def Fmt.bias (f : Fmt) : Nat :=
  match f with
  | .v8p => 7 | .v8r => 15 | .v4 => 1 | .a16 => 31 | _ => 127

/-- Encoding of the largest finite magnitude (R31). -/
def Fmt.maxFin (f : Fmt) : Nat :=
  match f with
  | .v16 => 0x7F7F | .v8p => 0x7E | .v8r => 0x7B | .v4 => 0x7 | .a16 => 0x7DFF | _ => 0x7F7FFFFF

/-- Encoding of +Infinity, for the formats that have one (R31). -/
def Fmt.inf (f : Fmt) : Option Nat :=
  match f with
  | .v16 => some 0x7F80 | .v8r => some 0x7C | .a16 => some 0x7E00 | .a32 => some 0x7F800000
  | .f32 => some 0x7F800000 | _ => none

/-- The canonical NaN (R32); V4 and the integers have none and take 0 (R37, R44). -/
def Fmt.nan (f : Fmt) : Nat :=
  match f with
  | .v16 => 0x7FC0 | .v8p => 0x7F | .v8r => 0x7E | .a16 => 0x7F00 | .a32 => 0x7FC00000 | .f32 => 0x7FC00000 | _ => 0

/-- Whether a finite overflow of a conversion saturates in every mode (R44). -/
def Fmt.saturates (f : Fmt) : Bool :=
  match f with
  | .v8p => true | .v8r => true | .v4 => true | _ => false

/-- +0. -/
def Num.zero : Num := .fin false 0 0

/-- The integer i. -/
def Num.ofInt (i : Int) : Num := .fin (decide (i < 0)) i.natAbs 0

/-- Whether the value is NaN. -/
def Num.isNan (x : Num) : Bool :=
  match x with
  | .nan => true | _ => false

/-- Whether the value is finite. -/
def Num.isFin (x : Num) : Bool :=
  match x with
  | .fin _ _ _ => true | _ => false

/-- Whether the value is a zero of either sign. -/
def Num.isZero (x : Num) : Bool :=
  match x with
  | .fin _ m _ => m == 0 | _ => false

/-- The sign bit. -/
def Num.sign (x : Num) : Bool :=
  match x with
  | .nan => false | .inf n => n | .fin n _ _ => n

/-- The value with its sign changed. -/
def Num.neg (x : Num) : Num :=
  match x with
  | .nan => .nan | .inf n => .inf (!n) | .fin n m e => .fin (!n) m e

/-- The magnitude. -/
def Num.abs (x : Num) : Num :=
  match x with
  | .nan => .nan | .inf _ => .inf false | .fin _ m e => .fin false m e

/-- The value times 2^k, exactly. -/
def Num.scale (x : Num) (k : Int) : Num :=
  match x with
  | .fin n m e => .fin n m (e + k)
  | y => y

/-- The number an encoding holds (R28 to R31, R34). V4 is the element without its block scale. -/
def decodeNum (f : Fmt) (x : Nat) : Num :=
  if f.isInt then
    let n := f.bits
    let x := x % 2 ^ n
    .ofInt (if x < 2 ^ (n - 1) then (x : Int) else (x : Int) - (2 ^ n : Nat))
  else
    let fb := f.frac
    let sgn := x / 2 ^ (f.bits - 1) % 2 == 1
    let mag := x % 2 ^ (f.bits - 1)
    let special := match f.inf with
      | some i => if mag == i then some (Num.inf sgn) else if mag > i then some .nan else none
      | none => if f == .v8p && mag == 0x7F then some .nan else none
    match special with
    | some v => v
    | none =>
      let ex := mag / 2 ^ fb
      let fr := mag % 2 ^ fb
      if ex == 0 then .fin sgn fr (1 - (f.bias : Int) - fb)
      else .fin sgn (2 ^ fb + fr) ((ex : Int) - f.bias - fb)

/-- An A32 or F32 encoding's number (R38). -/
def f32 (x : BitVec 32) : Num := decodeNum .f32 x.toNat

/-- The four flags of R46 and DZ, at the bit places of CORE_VXSTAT (R138): nv, of, uf, nx, dz. -/
abbrev Flags := BitVec 5

/-- Invalid. -/
def flagNv : Flags := 1
/-- Overflow. -/
def flagOf : Flags := 2
/-- Underflow. -/
def flagUf : Flags := 4
/-- Inexact. -/
def flagNx : Flags := 8
/-- Division by zero. -/
def flagDz : Flags := 16

/-- Whether any flag of mask is raised. -/
def Flags.has (f mask : Flags) : Bool := f &&& mask != 0

/-- A rounding mode with its draw: the mode codes of R41. -/
inductive Round where
  | rne
  | sr (u : BitVec 16)
  | rtz
deriving DecidableEq, Repr

/-- The mode of a 2-bit code, with the draw SR would take; code 3 is rejected where instructions are checked (R41). -/
def Round.ofCode (c : Nat) (u : BitVec 16) : Round :=
  match c with
  | 0 => .rne | 1 => .sr u | _ => .rtz

/-- Whether the mode truncates. -/
def Round.isRtz (r : Round) : Bool :=
  match r with
  | .rtz => true | _ => false

/-- Whether a truncated magnitude is stepped up: q is the truncation, rem the discarded bits out of sh (R41, R42). -/
def roundUp (r : Round) (q rem sh : Nat) : Bool :=
  match r with
  | .rtz => false
  | .rne => 2 * rem > 2 ^ sh || (2 * rem == 2 ^ sh && q % 2 == 1)
  | .sr u => (if sh ≥ 16 then rem >>> (sh - 16) else rem <<< (16 - sh)) + u.toNat ≥ 2 ^ 16

/-- m × 2^e as a multiple of 2^q under a mode: the rounded multiple, and whether it was exact. -/
def roundMul (r : Round) (m : Nat) (e q : Int) : Nat × Bool :=
  if q ≤ e then (m <<< (e - q).toNat, true)
  else
    let sh := (q - e).toNat
    let k := m >>> sh
    let rem := m % 2 ^ sh
    (if roundUp r k rem sh then k + 1 else k, rem == 0)

/-- Put the sign bit on a magnitude encoding. -/
def withSign (f : Fmt) (neg : Bool) (mag : Nat) : Nat := if neg then mag + 2 ^ (f.bits - 1) else mag

/-- Round a value into a floating-point format (R42, R44, R46, R47). sat: a finite overflow saturates, else it becomes
±Infinity except under RTZ. -/
def roundFloat (f : Fmt) (sat : Bool) (r : Round) (x : Num) : Nat × Flags :=
  match x with
  | .nan => (f.nan, flagNv)
  | .inf n =>
    match f.inf with
    | some i => (withSign f n i, 0)
    | none => (withSign f n f.maxFin, flagOf ||| flagNx)
  | .fin n m e =>
    if m == 0 then (withSign f n 0, 0)
    else
      let fb : Int := f.frac
      let emin : Int := 1 - (f.bias : Int)
      let top : Int := (Nat.log2 m : Int) + e
      let ex := if top < emin then emin else top
      let (k, exact) := roundMul r m e (ex - fb)
      let enc := (ex - emin).toNat * 2 ^ f.frac + k
      let nx : Flags := if exact then 0 else flagNx
      if enc > f.maxFin then
        match (if sat || r.isRtz then none else f.inf) with
        | some i => (withSign f n i, flagOf ||| flagNx)
        | none => (withSign f n f.maxFin, flagOf ||| flagNx)
      else
        let uf : Flags := if !exact && enc != 0 && top < emin then flagUf else 0
        (withSign f n enc, nx ||| uf)

/-- Round a value into an integer format, saturating (R34, R44, R46). -/
def roundInt (f : Fmt) (r : Round) (x : Num) : Nat × Flags :=
  let n := f.bits
  let most := 2 ^ (n - 1) - 1
  match x with
  | .nan => (0, flagNv)
  | .inf ng => (if ng then most + 1 else most, flagOf ||| flagNx)
  | .fin ng m e =>
    let (k, exact) := roundMul r m e 0
    let lim := if ng then most + 1 else most
    if k > lim then (lim, flagOf ||| flagNx)
    else ((if ng then (2 ^ n - k) % 2 ^ n else k), if exact then 0 else flagNx)

/-- A V4 element from a value already divided by its block scale: a quotient beyond ±6 saturates and raises OF even
where it would round to 6 (R37). -/
def roundV4 (r : Round) (x : Num) : Nat × Flags :=
  match x with
  | .fin n m e =>
    let beyond := if 0 ≤ e then m <<< e.toNat > 6 else m > 6 <<< (-e).toNat
    if beyond then (withSign .v4 n 7, flagOf ||| flagNx) else roundFloat .v4 true r (.fin n m e)
  | .inf n => (withSign .v4 n 7, flagOf ||| flagNx)
  | .nan => (0, flagNv)

/-- Round a value into any format but V4 with its scale: one row of R44. -/
def roundTo (f : Fmt) (r : Round) (x : Num) : Nat × Flags :=
  if f.isInt then roundInt f r x
  else if f == .v4 then roundV4 r x
  else roundFloat f f.saturates r x

/-- The value of a V4 element under scale byte s: NaN at 0xFF (R35, R36). -/
def v4Value (s el : Nat) : Num := if s % 256 == 255 then .nan else (decodeNum .v4 el).scale ((s % 256 : Nat) - 127)

/-- Whether R44 pairs V4 with this destination; other destinations go through F32 (R45). -/
def Fmt.pairsV4 (f : Fmt) : Bool :=
  match f with
  | .f32 => true | .a32 => true | .v16 => true | _ => false

/-- Convert a value decoded from V4 (with scale): directly for the formats R44 pairs, else through F32 (R45). -/
def convFromV4 (f : Fmt) (r : Round) (x : Num) : Nat × Flags :=
  if f.pairsV4 then roundTo f r x
  else
    let (y, fl) := roundTo .f32 r x
    let (z, fl2) := roundTo f r (decodeNum .f32 y)
    (z, fl ||| fl2)

/-- Compare two finite magnitudes a × 2^ea ≤ b × 2^eb. -/
def magLe (ma : Nat) (ea : Int) (mb : Nat) (eb : Int) : Bool :=
  if ea ≤ eb then ma ≤ mb <<< (eb - ea).toNat else ma <<< (ea - eb).toNat ≤ mb

/-- The larger magnitude of two; NaN where either is (R171). -/
def maxMag (a b : Num) : Num :=
  match a.abs, b.abs with
  | .nan, _ => .nan
  | _, .nan => .nan
  | .inf _, _ => .inf false
  | _, .inf _ => .inf false
  | .fin _ ma ea, .fin _ mb eb => if magLe ma ea mb eb then .fin false mb eb else .fin false ma ea

/-- The smallest scale byte s from 0 for which mag ≤ top × 2^(s − 127), searched from s with fuel steps; 254 if none. -/
def scaleSearch (top : Nat) (m : Nat) (e : Int) (s : Nat) (fuel : Nat) : Nat :=
  match fuel with
  | 0 => 254
  | k + 1 => if magLe m e top ((s : Int) - 127) then s else scaleSearch top m e (s + 1) k

/-- The scale byte of a block from its largest magnitude, with the largest element magnitude top (R37, R275). -/
def scaleOf (top : Nat) (a : Num) : Nat :=
  match a with
  | .nan => 255
  | .inf _ => 254
  | .fin _ m e => if m == 0 then 127 else scaleSearch top m e 0 255

/-- The exact sum as a signed mantissa at the lower of the two exponents. -/
def alignSum (na : Bool) (ma : Nat) (ea : Int) (nb : Bool) (mb : Nat) (eb : Int) : Int × Int :=
  let e := if ea ≤ eb then ea else eb
  let a : Int := (ma <<< (ea - e).toNat : Nat)
  let b : Int := (mb <<< (eb - e).toNat : Nat)
  ((if na then -a else a) + (if nb then -b else b), e)

/-- The exact sum of two values, with IEEE 754's zero signs (R33). Opposite infinities give NaN. -/
def Num.add (a b : Num) : Num :=
  match a, b with
  | .nan, _ => .nan
  | _, .nan => .nan
  | .inf x, .inf y => if x == y then .inf x else .nan
  | .inf x, _ => .inf x
  | _, .inf y => .inf y
  | .fin na ma ea, .fin nb mb eb =>
    if ma == 0 && mb == 0 then .fin (na && nb) 0 0
    else
      let (v, e) := alignSum na ma ea nb mb eb
      .fin (decide (v < 0)) v.natAbs e

/-- The exact product. Infinity times zero gives NaN. -/
def Num.mul (a b : Num) : Num :=
  match a, b with
  | .nan, _ => .nan
  | _, .nan => .nan
  | .inf x, .inf y => .inf (x != y)
  | .inf x, .fin y m _ => if m == 0 then .nan else .inf (x != y)
  | .fin x m _, .inf y => if m == 0 then .nan else .inf (x != y)
  | .fin na ma ea, .fin nb mb eb => .fin (na != nb) (ma * mb) (ea + eb)

/-- The quotient, exact to 2^-128 of itself with a sticky last bit, which rounds as the exact quotient does. -/
def Num.div (a b : Num) : Num :=
  match a, b with
  | .nan, _ => .nan
  | _, .nan => .nan
  | .inf _, .inf _ => .nan
  | .inf x, .fin y _ _ => .inf (x != y)
  | .fin x _ _, .inf y => .fin (x != y) 0 0
  | .fin na ma ea, .fin nb mb eb =>
    if mb == 0 then (if ma == 0 then .nan else .inf (na != nb))
    else
      let k := 128 + Nat.log2 mb
      let q := (ma <<< k) / mb
      let st := if (ma <<< k) % mb == 0 then 0 else 1
      .fin (na != nb) (2 * q + st) (ea - eb - k - 1)

/-- The square root of a value, with a sticky last bit; a negative value gives NaN. -/
def Num.sqrt (a : Num) : Num :=
  match a with
  | .nan => .nan
  | .inf n => if n then .nan else .inf false
  | .fin n m e =>
    if m == 0 then .fin n 0 0
    else if n then .nan
    else
      let odd := e % 2 != 0
      let m2 := (if odd then 2 * m else m) <<< 128
      let e2 := (if odd then e - 1 else e) - 128
      let q := Nat.sqrt m2
      .fin false (2 * q + (if q * q == m2 then 0 else 1)) (e2 / 2 - 1)

/-- a < b on finite values and infinities; false where either is NaN. -/
def Num.lt (a b : Num) : Bool :=
  match a, b with
  | .nan, _ => false
  | _, .nan => false
  | .inf x, .inf y => x && !y
  | .inf x, _ => x
  | _, .inf y => !y
  | .fin na ma ea, .fin nb mb eb =>
    let (v, _) := alignSum na ma ea (!nb) mb eb
    decide (v < 0)

/-- Whether two values are equal numbers, +0 and −0 included. -/
def Num.eqv (a b : Num) : Bool := !a.isNan && !b.isNan && !a.lt b && !b.lt a

/-- An F32 result under a mode, with its flags. -/
def toF32 (r : Round) (x : Num) : BitVec 32 × Flags :=
  let (y, fl) := roundTo .f32 r x
  (BitVec.ofNat 32 y, fl)

/-- F32 sum under RNE. -/
def addF (a b : BitVec 32) : BitVec 32 := (toF32 .rne ((f32 a).add (f32 b))).1
/-- F32 difference under RNE. -/
def subF (a b : BitVec 32) : BitVec 32 := (toF32 .rne ((f32 a).add (f32 b).neg)).1
/-- F32 product under RNE. -/
def mulF (a b : BitVec 32) : BitVec 32 := (toF32 .rne ((f32 a).mul (f32 b))).1
/-- F32 fused a × b + c under RNE. -/
def fmaF (a b c : BitVec 32) : BitVec 32 := (toF32 .rne (((f32 a).mul (f32 b)).add (f32 c))).1
/-- F32 quotient under RNE. -/
def divF (a b : BitVec 32) : BitVec 32 := (toF32 .rne ((f32 a).div (f32 b))).1
/-- F32 square root under RNE. -/
def sqrtF (a : BitVec 32) : BitVec 32 := (toF32 .rne (f32 a).sqrt).1

/-- The canonical NaN as an F32 word (R32). -/
def nanF : BitVec 32 := 0x7FC00000

/-- Whether an F32 word is NaN. -/
def isNanF (a : BitVec 32) : Bool := (f32 a).isNan

/-- The larger of two F32 words: NaN where either is, −0 below +0 (R133, R136). -/
def maxF (a b : BitVec 32) : BitVec 32 :=
  if isNanF a || isNanF b then nanF
  else if (f32 a).lt (f32 b) then b
  else if (f32 b).lt (f32 a) then a
  else if a.msb then b else a

/-- The smaller of two F32 words: NaN where either is, −0 below +0 (R133, R136). -/
def minF (a b : BitVec 32) : BitVec 32 :=
  if isNanF a || isNanF b then nanF
  else if (f32 a).lt (f32 b) then a
  else if (f32 b).lt (f32 a) then b
  else if a.msb then a else b

/-- The F32 word of a value that F32 holds exactly. -/
def exactF32 (x : Num) : BitVec 32 := (toF32 .rne x).1

/-- A heel add: the exact sum rounded once under SR into the accumulator format; overflow becomes ±Infinity (R39). An
exact zero sum is +0 (R33). -/
def heelRound (f : Fmt) (u : BitVec 16) (x : Num) : Nat × Flags :=
  roundFloat f false (.sr u) (if x.isZero then .zero else x)

/-- mix of R182. -/
def mix64 (x : Word) : Word :=
  let x := x ^^^ (x >>> 30)
  let x := x * 0xBF58476D1CE4E5B9
  let x := x ^^^ (x >>> 27)
  let x := x * 0x94D049BB133111EB
  x ^^^ (x >>> 31)

/-- The draw of a key, epoch, context, tid, source, sub and index (R182). -/
def draw (key : Word) (epoch : BitVec 32) (ctx tid : BitVec 16) (src sub index : Nat) : BitVec 16 :=
  let c0 : Word := ((epoch.zeroExtend 64) <<< 32) ||| ((ctx.zeroExtend 64) <<< 16) ||| tid.zeroExtend 64
  let c1 : Word := ((BitVec.ofNat 64 src) <<< 60) ||| ((BitVec.ofNat 64 sub) <<< 48) ||| BitVec.ofNat 64 index
  let h := mix64 (key ^^^ c0)
  let h := mix64 (h ^^^ c1 ^^^ 0x9E3779B97F4A7C15)
  BitVec.ofNat 16 (h >>> 48).toNat

end Sys2Proof.Machine
end

