-- ==== Sys2Proof/Machine/Sparse.lean ====
section
/-! DEFINITION. Plain operations on the state's data: sparse tables and memories in canonical form, byte strings,
vectors, saturating counters and the CRC-32C of stored records. -/

namespace Sys2Proof.Machine

/-- The entry of a table, or its default. -/
def SMap.get {α : Type} (d : α) (m : SMap α) (k : Nat) : α :=
  match m with
  | [] => d
  | (j, v) :: r => if j = k then v else SMap.get d r k

/-- Write an entry, keeping keys rising and dropping a value equal to the default. -/
def SMap.put {α : Type} [DecidableEq α] (d : α) (m : SMap α) (k : Nat) (v : α) : SMap α :=
  match m with
  | [] => if v = d then [] else [(k, v)]
  | (j, w) :: r =>
    if j = k then (if v = d then r else (k, v) :: r)
    else if k < j then (if v = d then (j, w) :: r else (k, v) :: (j, w) :: r)
    else (j, w) :: SMap.put d r k v

/-- Every key of the table is above k. -/
def SMap.above {α : Type} (k : Nat) (m : SMap α) : Bool :=
  match m with
  | [] => true
  | (j, _) :: _ => k < j

/-- The canonical form: keys strictly rising, no default entry. -/
def SMap.wf {α : Type} [DecidableEq α] (d : α) (m : SMap α) : Bool :=
  match m with
  | [] => true
  | (j, v) :: r => decide (v ≠ d) && SMap.above j r && SMap.wf d r

/-- The byte at an offset: an unlisted offset reads as zero. -/
def Memory.read (m : Memory) (a : Nat) : Byte := SMap.get (0 : Byte) m a

/-- Write a byte at an offset. -/
def Memory.write (m : Memory) (a : Nat) (b : Byte) : Memory := SMap.put (0 : Byte) m a b

/-- The canonical form of a memory. -/
abbrev Memory.wf (m : Memory) : Bool := SMap.wf (0 : Byte) m

/-- n bytes from an offset upward. -/
def Memory.readN (m : Memory) (a : Nat) (n : Nat) : List Byte :=
  match n with
  | 0 => []
  | k + 1 => m.read a :: Memory.readN m (a + 1) k

/-- Write bytes from an offset upward. -/
def Memory.writeN (m : Memory) (a : Nat) (bs : List Byte) : Memory :=
  match bs with
  | [] => m
  | b :: r => (m.write a b).writeN (a + 1) r

/-- Keep only the entries below a bound. -/
def Memory.below (m : Memory) (n : Nat) : Memory := m.filter fun c => c.1 < n

/-- The number a little-endian byte string holds (R9). -/
def leNat (bs : List Byte) : Nat :=
  match bs with
  | [] => 0
  | b :: r => b.toNat + 256 * leNat r

/-- n little-endian bytes of a number (R9). -/
def leBytes (n : Nat) (x : Nat) : List Byte :=
  match n with
  | 0 => []
  | k + 1 => BitVec.ofNat 8 x :: leBytes k (x / 256)

/-- The little-endian number of n bytes at an offset. -/
def Memory.nat (m : Memory) (a n : Nat) : Nat := leNat (m.readN a n)

/-- The little-endian number of n bytes at a place of a byte string; missing bytes are zero. -/
def natAt (bs : List Byte) (off n : Nat) : Nat := leNat ((bs.drop off).take n)

/-- A byte string cut or filled with zeros to n bytes. -/
def padTo (n : Nat) (bs : List Byte) : List Byte := (bs ++ List.replicate n 0).take n

/-- Put a number into a rising set. -/
def NatSet.add (s : NatSet) (k : Nat) : NatSet :=
  match s with
  | [] => [k]
  | j :: r => if k < j then k :: j :: r else if k = j then j :: r else j :: NatSet.add r k

/-- Take a number out of a set. -/
def NatSet.del (s : NatSet) (k : Nat) : NatSet := s.filter fun j => j ≠ k

/-- Put every number of a list into a set. -/
def NatSet.addAll (s : NatSet) (ks : List Nat) : NatSet := ks.foldl NatSet.add s

/-- Replace entry i of a vector. -/
def vput {α : Type} {n : Nat} (v : Vector α n) (i : Fin n) (x : α) : Vector α n := v.set i.val x i.isLt

/-- Change entry i of a vector. -/
def vmod {α : Type} {n : Nat} (v : Vector α n) (i : Fin n) (f : α → α) : Vector α n := vput v i (f v[i])

/-- Entry i of a vector, or d outside it. -/
def vgetD {α : Type} {n : Nat} (v : Vector α n) (i : Nat) (d : α) : α := if h : i < n then v[i] else d

/-- Replace entry i of a vector where it has one. -/
def vputD {α : Type} {n : Nat} (v : Vector α n) (i : Nat) (x : α) : Vector α n := if h : i < n then v.set i x h else v

/-- Add k to a counter that stays at its largest value. -/
def satAdd {n : Nat} (c : BitVec n) (k : Nat) : BitVec n :=
  if c.toNat + k ≥ 2 ^ n then BitVec.allOnes n else BitVec.ofNat n (c.toNat + k)

/-- Bits [hi:lo] of a word as a number. -/
def bitsOf {n : Nat} (w : BitVec n) (hi lo : Nat) : Nat := w.toNat / 2 ^ lo % 2 ^ (hi + 1 - lo)

/-- Bit i of a word. -/
def bitOf {n : Nat} (w : BitVec n) (i : Nat) : Bool := w.toNat / 2 ^ i % 2 == 1

/-- A 64-bit word from fields given as (lowest bit, value). -/
def fields (fs : List (Nat × Nat)) : Word := BitVec.ofNat 64 (fs.foldl (fun a f => a + f.2 * 2 ^ f.1) 0)

/-- 1 for true. -/
def b2n (b : Bool) : Nat := if b then 1 else 0

/-- One step of the reflected CRC-32C. -/
def crcBit (c : BitVec 32) : BitVec 32 := if c.toNat % 2 = 1 then (c >>> 1) ^^^ 0x82F63B78 else c >>> 1

/-- One byte of the CRC-32C. -/
def crcByte (c : BitVec 32) (b : Byte) : BitVec 32 :=
  let c := c ^^^ b.zeroExtend 32
  crcBit (crcBit (crcBit (crcBit (crcBit (crcBit (crcBit (crcBit c)))))))

/-- The CRC-32C of a byte string. -/
def crc32c (bs : List Byte) : BitVec 32 := (bs.foldl crcByte 0xFFFFFFFF) ^^^ 0xFFFFFFFF

/-- Apply f to 0 … n − 1 in order. -/
def forN {σ : Type} (n : Nat) (f : Nat → σ → σ) (s : σ) : σ := (List.range n).foldl (fun a i => f i a) s

/-- The first n elements and the rest, or nothing where there are fewer. -/
def takeN {α : Type} (n : Nat) (xs : List α) : Option (List α × List α) :=
  if n ≤ xs.length then some (xs.take n, xs.drop n) else none

end Sys2Proof.Machine
end

