-- ==== Sys2Proof/Machine/Ops.lean ====
section
/-! DEFINITION. The named operations over the part's state: cores, time, event records, health counters, interrupts,
addresses, memory and the staging blocks of the Welt (R54, R226 to R230, R250 to R260, R499 to R501, R518). -/

namespace Sys2Proof.Machine

/-! ### Statuses -/

/-- The code of a completion status (R498). -/
def Status.code (s : Status) : Nat :=
  match s with
  | .ok => 0x00 | .alreadyDone => 0x01 | .busy => 0x02 | .timeout => 0x10 | .aborted => 0x11 | .refusedReset => 0x12
  | .eccUncorrectable => 0x20 | .residueFault => 0x21 | .overflowRepeatExhausted => 0x30 | .nanInRegion => 0x31
  | .fenced => 0x40 | .versionMismatch => 0x41 | .topologyMismatch => 0x42 | .seqMismatch => 0x50
  | .capacityDrop => 0x60

/-- The status of a code; codes not listed are never produced (R498). -/
def Status.ofCode (c : Nat) : Option Status :=
  match c with
  | 0x00 => some .ok | 0x01 => some .alreadyDone | 0x02 => some .busy | 0x10 => some .timeout | 0x11 => some .aborted
  | 0x12 => some .refusedReset | 0x20 => some .eccUncorrectable | 0x21 => some .residueFault
  | 0x30 => some .overflowRepeatExhausted | 0x31 => some .nanInRegion | 0x40 => some .fenced
  | 0x41 => some .versionMismatch | 0x42 => some .topologyMismatch | 0x50 => some .seqMismatch
  | 0x60 => some .capacityDrop | _ => none

/-- The CORE_HEALTH flag a status sets as the status of an instruction (R73, R498). -/
def Status.flag (s : Status) : BitVec 8 :=
  match s with
  | .timeout => 0x08 | .aborted => 0x08 | .refusedReset => 0x08 | .seqMismatch => 0x08 | .eccUncorrectable => 0x10
  | .residueFault => 0x04 | .overflowRepeatExhausted => 0x02 | .nanInRegion => 0x01 | .fenced => 0x40
  | .capacityDrop => 0x80 | _ => 0

/-- The numerically larger of two statuses (R61, R267). -/
def Status.worse (a b : Status) : Status := if a.code < b.code then b else a

/-- a unless it is OK, else b. -/
def Status.orElse (a b : Status) : Status := if a = .ok then b else a

/-! ### Cores -/

/-- Change core n. -/
def State.modCore (s : State) (n : Core) (f : CoreSt → CoreSt) : State := { s with cores := vmod s.cores n f }

/-- Change the program-visible state of core n. -/
def State.modArch (s : State) (n : Core) (f : CoreArch → CoreArch) : State :=
  s.modCore n fun c => { c with arch := f c.arch }

/-- Change the registers of core n. -/
def State.modReg (s : State) (n : Core) (f : CoreRegs → CoreRegs) : State :=
  s.modCore n fun c => { c with reg := f c.reg }

/-- Core n. -/
def State.core (s : State) (n : Core) : CoreSt := s.cores[n]

/-- Read a scalar; s0 reads as zero (R52). -/
def CoreArch.sreg (a : CoreArch) (i : Nat) : Word := if i = 0 then 0 else vgetD a.s i 0

/-- Write a scalar; a write to s0 is discarded (R52). -/
def CoreArch.setS (a : CoreArch) (i : Nat) (v : Word) : CoreArch := if i = 0 then a else { a with s := vputD a.s i v }

/-- Read a predicate; p0 reads as true (R52). -/
def CoreArch.pred (a : CoreArch) (i : Nat) : Bool := if i = 0 then true else vgetD a.p i false

/-- Write a predicate; a write to p0 is discarded (R52). -/
def CoreArch.setP (a : CoreArch) (i : Nat) (v : Bool) : CoreArch := if i = 0 then a else { a with p := vputD a.p i v }

/-- Semaphore i. -/
def CoreArch.semOf (a : CoreArch) (i : Nat) : Sem := vgetD a.sem i Sem.reset

/-- Replace semaphore i. -/
def CoreArch.setSem (a : CoreArch) (i : Nat) (x : Sem) : CoreArch := { a with sem := vputD a.sem i x }

/-- Set step and health flags together (R73). -/
def CoreSt.setFlags (c : CoreSt) (m : BitVec 8) : CoreSt :=
  { c with flags := c.flags ||| m, reg := { c.reg with health := c.reg.health ||| m } }

/-- Queue q of a core. -/
def CoreSt.queue (c : CoreSt) (q : QueueId) : Queue :=
  match q with
  | .mx => c.mx | .mv => c.mv | .vx => c.vx | .st => c.stq | .cl => c.cl

/-- Replace queue q of a core. -/
def CoreSt.setQueue (c : CoreSt) (q : QueueId) (x : Queue) : CoreSt :=
  match q with
  | .mx => { c with mx := x } | .mv => { c with mv := x } | .vx => { c with vx := x } | .st => { c with stq := x }
  | .cl => { c with cl := x }

/-- A queue with nothing placed and nothing started. -/
def Queue.idle (q : Queue) : Bool := q.waiting.isEmpty && q.running.isEmpty

/-- Every queue of the core has completed (R57, R64). -/
def CoreSt.allIdle (c : CoreSt) : Bool := c.mx.idle && c.mv.idle && c.vx.idle && c.stq.idle && c.cl.idle

/-- Whether a core is RUNNING or WAITING. -/
def CoreSt.busy (c : CoreSt) : Bool := c.reg.run == .running || c.reg.run == .waiting

/-- Whether any core is RUNNING or WAITING. -/
def State.anyBusy (s : State) : Bool := s.cores.toList.any CoreSt.busy

/-- The repeat index of the open region, 0 outside a region (R174). -/
def CoreSt.rep (c : CoreSt) : BitVec 4 :=
  match c.region with
  | some g => g.r | none => 0

/-- Continue at an address: hold issue until its line arrives where the buffer does not hold it (R53, R198). -/
def CoreSt.goto (c : CoreSt) (pc : Word) : CoreSt :=
  let l : BitVec 58 := (pc >>> 6).truncate 58
  { c with arch := { c.arch with pc := pc }, hold := if c.ibuf.contains l then .none else .line l }

/-- Continue at the next instruction (R57). -/
def CoreSt.advance (c : CoreSt) : CoreSt := c.goto (c.arch.pc + 8)

/-- A ring with every slot EMPTY, nothing failed, its configuration and the place of its tail kept (R78, R144, R150). -/
def Ring.emptied (r : Ring) : Ring :=
  { r with slots := List.replicate r.nslots.toNat Slot.reset, head := r.tail, rpos := 0, failed := none, prod := none
           cons := none }

/-- Empty every ring and both tile banks and set the heel to zero (R78, R80, R365). -/
def CoreArch.emptied (a : CoreArch) : CoreArch :=
  { a with ring := a.ring.map Ring.emptied, bank := Vector.replicate 2 Bank.reset, heel := [], heelPoison := [] }

/-! ### Time, records, health, interrupts -/

/-- The time counter in ns (R465). -/
def State.now (s : State) : Word := (s.clk.time >>> 32).truncate 64

/-- Whether the fast clocks deliver pulses: past BOOT's lock step, not frozen, and every fast PLL locked (R462, R473). -/
def State.fastOn (s : State) : Bool :=
  s.clk.lock && !s.clk.dieReset &&
    match s.clk.state with
    | .boot => true | .ready => true | .joined => true | .active => true | .fenced => true | .fault => true
    | _ => false

/-- ACTIVE, or FENCED from ACTIVE, which counts as ACTIVE (R466). -/
def State.isActive (s : State) : Bool :=
  s.clk.state == .active || (s.clk.state == .fenced && s.clk.prev == .active)

/-- Whether Cobbler's firmware takes records and commands. -/
def State.cblUp (s : State) : Bool := s.cbl.phase == .service && !s.cbl.heldReset && s.clk.state != .off

/-- Whether Cobbler's ring takes a record: it never overwrites one that is not mirrored (R451). -/
def State.ringTakes (s : State) : Bool := s.cblUp && decide (s.cbl.unmirrored.length < 1024)

/-- A record goes into Cobbler's ring with the next number (R449, R451). -/
def State.putRec (s : State) (r : EvRec) : State :=
  let r := { r with seq := s.cbl.nextSeq }
  let old := if s.cbl.ring.length ≥ 1024 then s.cbl.ring.drop 1 else s.cbl.ring
  { s with cbl := { s.cbl with ring := old ++ [r], unmirrored := s.cbl.unmirrored ++ [r], nextSeq := s.cbl.nextSeq + 1 } }

/-- A record is made: it goes into Cobbler's ring; where that takes none, or earlier ones are still held, it waits in the Awl,
which holds 256 records and a count (R21, R451). -/
def State.pushRec (s : State) (r : EvRec) : State :=
  if s.ringTakes && s.awl.held.isEmpty && s.awl.lost == 0 then s.putRec r
  else { s with awl :=
    if s.awl.held.length < 256 then { s.awl with held := s.awl.held ++ [r] }
    else { s.awl with lost := s.awl.lost + 1 } }

/-- Write an event record: source and low byte of its code, severity, status, cause class, unit and data (R449, R450). -/
def State.event (s : State) (src low : Nat) (sev : Nat) (st : Status) (cls : Nat) (dev : Nat) (data : Word) : State :=
  s.pushRec { seq := 0, time := s.now, code := BitVec.ofNat 16 (src * 256 + low), severity := BitVec.ofNat 8 sev
              status := st, cls := BitVec.ofNat 8 cls, dev := BitVec.ofNat 16 dev, data := data, count := 1 }

/-- A whole-part unit number of a record (R449). -/
def partUnit : Nat := 0xFFFF

/-- Cause classes of R449: intrinsic. -/
def intrinsic : Nat := 1
/-- Cause classes of R449: link. -/
def linkCause : Nat := 2
/-- Cause classes of R449: neighbour-induced. -/
def neighbour : Nat := 3

/-- Count an error in the health counters: by source, cause class and unit (R451). -/
def State.health (s : State) (src cls dev : Nat) : State :=
  let k := src * 2 ^ 24 + cls * 2 ^ 16 + dev
  { s with awl := { s.awl with health := SMap.put 0 s.awl.health k (SMap.get 0 s.awl.health k + 1)
                               healthNew := SMap.put 0 s.awl.healthNew k (SMap.get 0 s.awl.healthNew k + 1) } }

/-- Set interrupt source k; a source already set stays set (R423, R424). -/
def State.irq (s : State) (k : Nat) : State :=
  { s with ctx := { s.ctx with pend := s.ctx.pend ||| BitVec.ofNat 32 (2 ^ k) } }

/-- Whether hart h receives a supervisor external interrupt (R423). -/
def State.interrupts (s : State) (h : Hart) : Bool := s.ctx.pend &&& s.ctx.irqEn[h] != 0

/-- Drive FRZ_N low, recording the trigger and its core, unless the part already drives it or is frozen (R472, R482). -/
def State.driveFreeze (s : State) (cause : Nat) (n : Nat) : State :=
  if s.clk.frzDrive || s.clk.state == .frozen then s
  else
    { s with clk := { s.clk with frzDrive := true, frzN := false }
             awl := { s.awl with frzBy := BitVec.ofNat 8 cause, frzUnit := BitVec.ofNat 4 n } }

/-- Draw a fresh free value: its number, and the counter moved on. -/
def State.fresh (s : State) : Nat × State := (s.freeCtr, { s with freeCtr := s.freeCtr + 1 })

/-- A table of n free values, in canonical form. -/
def freeTable {α : Type} [DecidableEq α] (d : α) (f : BitVec 64 → α) (i n : Nat) : SMap α :=
  ((List.range n).map fun j => (j, f (Config.free (i + j)))).filter fun x => x.2 ≠ d

/-- Draw n free values: the number of the first, and the counter moved past them. -/
def State.freshN (s : State) (n : Nat) : Nat × State := (s.freeCtr, { s with freeCtr := s.freeCtr + n })

/-- A byte of a free value. -/
def freeByte (x : BitVec 64) : Byte := x.truncate 8

/-- n free bytes. -/
def freeBytes (i n : Nat) : List Byte := (List.range n).map fun j => freeByte (Config.free (i + j))

/-! ### The Insole map and the epoch copies -/

/-- Interleaved gibibytes per stack (R250). -/
def InsMap.gib (m : InsMap) : Nat := 64 - m.lambdaOn.toNat - m.sigmaOn.toNat

/-- The stack and stack offset of an Insole address; none when unmapped (R250, R251). -/
def InsMap.place (m : InsMap) (a : Nat) : Option (StackId × Nat) :=
  let gib := 2 ^ 30
  let i := m.gib
  let l := m.lambdaOn.toNat
  if a < 24 * i * gib then
    let g := a / 4096
    some (Fin.ofNat 24 (g % 24), g / 24 * 4096 + a % 4096)
  else if a < 24 * (i + l) * gib then
    let b := a - 24 * i * gib
    some (Fin.ofNat 24 (b / (l * gib)), i * gib + b % (l * gib))
  else none

/-- Granules of stack k among the addresses below granule number g (R251). -/
def InsMap.below (m : InsMap) (k : StackId) (g : Nat) : Nat :=
  let q := 2 ^ 18
  let i := m.gib
  let l := m.lambdaOn.toNat
  let inter := (min g (24 * i * q) + 23 - k.val) / 24
  let start := 24 * i * q + k.val * (l * q)
  inter + min (g - start) (l * q)

/-- Whether the granule number g of an address lies in an epoch range in effect (R253). -/
def InsMap.isEpoch (m : InsMap) (g : Nat) : Bool :=
  m.eprOn.toList.any fun e => e.base.toNat ≤ g && g < e.base.toNat + e.count.toNat

/-- The place of a granule's twin among its stack's twins: epoch granules of the stack below it in address order
(R253). -/
def InsMap.twinIndex (m : InsMap) (k : StackId) (g : Nat) : Nat :=
  (m.eprOn.toList.map fun e =>
    let lo := e.base.toNat
    let hi := e.base.toNat + e.count.toNat
    let top := max lo (min g hi)
    m.below k top - m.below k lo).sum

/-- The stack offset of a granule's twin, in the shadow (R250, R253). -/
def InsMap.twinOff (m : InsMap) (k : StackId) (g : Nat) : Nat :=
  (m.gib + m.lambdaOn.toNat) * 2 ^ 30 + m.twinIndex k g * 4096

/-- Copy n bytes inside a memory. -/
def Memory.copy (m : Memory) (src dst n : Nat) : Memory :=
  let moved := m.filter fun c => src ≤ c.1 && c.1 < src + n
  let kept : Memory := m.filter fun c => !(dst ≤ c.1 && c.1 < dst + n)
  moved.foldl (fun (acc : Memory) c => acc.write (c.1 - src + dst) c.2) kept

/-- Copy the poison of a granule's 64 lines (R260). -/
def copyPoison (p : NatSet) (src dst : Nat) : NatSet :=
  let moved := p.filter fun l => src / 64 ≤ l && l < src / 64 + 64
  let kept := p.filter fun l => !(dst / 64 ≤ l && l < dst / 64 + 64)
  NatSet.addAll kept (moved.map fun l => l - src / 64 + dst / 64)

/-- The channel of a line of a stack: bits [15:12] of its offset, for an interleaved and a stack-local address alike (R251). -/
def channelOf (line : Nat) : Fin 16 := Fin.ofNat 16 (line / 64)

/-- The channel of an Insole address; none when unmapped (R251). -/
def InsMap.channel (m : InsMap) (a : Nat) : Option (Fin 16) := (m.place a).map fun x => channelOf (x.2 / 64)

/-- Where a granule with home offset h and twin offset t keeps its committed copy. -/
def Stack.committedAt (k : Stack) (h t : Nat) : Nat := if k.table.twin.contains (h / 4096) then t else h

/-- Where it keeps the copy of E+1, which equals E until the first write (R254). -/
def Stack.nextAt (k : Stack) (h t : Nat) : Nat :=
  if k.table.written.contains (h / 4096) then (if k.table.twin.contains (h / 4096) then h else t) else k.committedAt h t

/-- The first write to a granule since the last decision settles its record and copies E into the other location (R254,
R256). -/
def Stack.touch (k : Stack) (h t : Nat) : Stack :=
  if k.table.written.contains (h / 4096) then k
  else
    let src := k.committedAt h t
    let dst := if k.table.twin.contains (h / 4096) then h else t
    { k with dram := k.dram.copy src dst 4096, poison := copyPoison k.poison src dst
             table := { k.table with written := NatSet.add k.table.written (h / 4096)
                                     unsettled := NatSet.del k.table.unsettled (h / 4096) } }

/-- Change the twins of a set of granules. -/
def NatSet.toggle (t gs : NatSet) : NatSet :=
  gs.foldl (fun (t : NatSet) g => if t.contains g then NatSet.del t g else NatSet.add t g) t

/-- The table after an act on a decision: on commit every written granule's other copy becomes its committed copy and the
former copies are kept; on abort E+1 equals E again; the records are left to settle (R255, R256, R372). -/
def EpochTable.act (t : EpochTable) (commit : Bool) : EpochTable :=
  { twin := if commit then t.twin.toggle t.written else t.twin, written := []
    unsettled := NatSet.addAll t.unsettled t.written, former := if commit then t.written else t.former }

/-- The table after a rewind: every granule of the last commit has its former copy back, and its record is left to settle
(R256, R372). -/
def EpochTable.rewind (t : EpochTable) : EpochTable :=
  { t with twin := t.twin.toggle t.former, unsettled := NatSet.addAll t.unsettled t.former, former := [] }

/-- Whether a stack's table lies in its maintenance area: from the reset of its logic die until it is restored (R277). -/
def Stack.saved (k : Stack) : Bool := k.state == .resetting || k.state == .training

/-- Change a stack's table where it lies. -/
def Stack.onTable (k : Stack) (f : EpochTable → EpochTable) : Stack :=
  if k.saved then { k with maint := f k.maint } else { k with table := f k.table }

/-- A stack acts on the oldest decision it holds (R255). -/
def Stack.act (k : Stack) : Stack :=
  match k.decisions with
  | [] => k
  | b :: rest => { k.onTable fun t => t.act b with decisions := rest }

/-! ### The address map -/

/-- A place in the part's memory. -/
inductive Loc where
  | insole (k : StackId) (off : Nat)
  | welt (off : Nat)
  | scratch (n : Core) (off : Nat)
deriving DecidableEq, Repr

/-- Base of the Welt (R499). -/
def weltBase : Nat := 0x200000000000
/-- Base of the core scratches (R499). -/
def scratchBase : Nat := 0x210000000000
/-- Bytes of a core scratch (R499). -/
def scratchSize : Nat := 0x800000
/-- Base of the register space (R499). -/
def regBase : Nat := 0x300000000000

/-- Change stack k. -/
def State.modStack (s : State) (k : StackId) (f : Stack → Stack) : State := { s with stack := vmod s.stack k f }

/-- Where a local address lies: for an epoch granule, the copy of E, or of E+1 when next is set (R54, R254, R499). -/
def State.locate (s : State) (next : Bool) (a : Nat) : Option Loc :=
  if a < 0x18000000000 then
    match s.ins.place a with
    | none => none
    | some (k, off) =>
      if s.ins.isEpoch (a / 4096) then
        let h := off / 4096 * 4096
        let t := s.ins.twinOff k (a / 4096)
        let b := if next then (s.stack[k]).nextAt h t else (s.stack[k]).committedAt h t
        some (.insole k (b + off % 4096))
      else some (.insole k off)
  else if weltBase ≤ a && a < weltBase + s.welt.areaOn.toNat * 2 ^ 18 then some (.welt (a - weltBase))
  else if scratchBase ≤ a && a < scratchBase + 16 * 2 ^ 24 && (a - scratchBase) % 2 ^ 24 < scratchSize then
    some (.scratch (Fin.ofNat 16 ((a - scratchBase) / 2 ^ 24)) ((a - scratchBase) % 2 ^ 24))
  else none

/-- The cluster of a core (R14). -/
def clusterOf (n : Core) : Cluster := Fin.ofNat 4 (n.val / 4)

/-- Wake a gated cluster (R468). -/
def State.wake (s : State) (c : Cluster) : State :=
  if s.clk.gate[c] == .clockGated || s.clk.gate[c] == .powerGated then
    { s with clk := { s.clk with gate := vput s.clk.gate c .waking } }
  else s

/-- Accesses to addresses wake the clusters whose cores' scratch they name (R468). -/
def State.wakeAt (s : State) (as : List Nat) : State :=
  as.foldl (fun s a => match s.locate false a with
    | some (.scratch n _) => s.wake (clusterOf n)
    | _ => s) s

/-- The space a local address lies in, as a number; none when it lies in no space reachable by core programs (R54). -/
def State.space (s : State) (a : Nat) : Option Nat :=
  match s.locate false a with
  | none => none
  | some (.insole _ _) => some 0
  | some (.welt _) => some 1
  | some (.scratch n _) => some (2 + n.val)

/-- Whether n bytes at a lie in one reachable space (R54). -/
def State.reach (s : State) (a n : Nat) : Bool :=
  n == 0 || (match s.space a with
    | none => false
    | some i => s.space (a + n - 1) == some i)

/-- The byte at a place. -/
def State.byteAt (s : State) (l : Loc) : Byte :=
  match l with
  | .insole k off => (s.stack[k]).dram.read off
  | .welt off => s.welt.mem.read off
  | .scratch n off => (s.core n).arch.scratch.read off

/-- The unit of error correction a place lies in: a 64 B line of a stack, a 16 B word elsewhere (R235, R258, R518). -/
def Loc.word (l : Loc) : Loc :=
  match l with
  | .insole k off => .insole k (off / 64)
  | .welt off => .welt (off / 16)
  | .scratch n off => .scratch n (off / 16)

/-- Bytes of the unit of error correction. -/
def Loc.wordBytes (l : Loc) : Nat :=
  match l with
  | .insole _ _ => 64
  | _ => 16

/-- Whether a unit of error correction is poisoned. -/
def State.poisoned (s : State) (w : Loc) : Bool :=
  match w with
  | .insole k l => (s.stack[k]).poison.contains l
  | .welt l => s.welt.poison.contains l
  | .scratch n l => (s.core n).arch.scratchPoison.contains l

/-- Mark or clear the poison of a unit of error correction. -/
def State.setPoison (s : State) (w : Loc) (on : Bool) : State :=
  let f := fun (p : NatSet) (l : Nat) => if on then NatSet.add p l else NatSet.del p l
  match w with
  | .insole k l => s.modStack k fun x => { x with poison := f x.poison l }
  | .welt l => { s with welt := { s.welt with poison := f s.welt.poison l } }
  | .scratch n l => s.modArch n fun x => { x with scratchPoison := f x.scratchPoison l }

/-- Count a corrected or uncorrectable error of a unit of error correction, by its memory's own registers (R235, R243,
R244, R258, R260, R283, R284, R423, R518). -/
def State.countEcc (s : State) (w : Loc) (ue : Bool) : State :=
  match w with
  | .insole k l =>
    let s := (s.modStack k fun x =>
      if ue then { x with ue := satAdd x.ue 1, eccLine := BitVec.ofNat 30 l, eccValid := true }
      else { x with ce := satAdd x.ce 1 }).health 0x04 intrinsic k.val
    if ue then s.irq 22 else s
  | .welt l =>
    let s := ({ s with welt :=
      if ue then { s.welt with ue := satAdd s.welt.ue 1, eccWord := BitVec.ofNat 25 l, eccValid := true }
      else { s.welt with ce := satAdd s.welt.ce 1 } }).health 0x05 intrinsic partUnit
    if ue then s.irq 23 else s
  | .scratch n _ => s.health 0x06 intrinsic n.val

/-- The bytes of E, or of E+1, at n addresses from a; bytes in no space read as zero. -/
def State.bytes (s : State) (next : Bool) (a n : Nat) : List Byte :=
  (List.range n).map fun i => match s.locate next (a + i) with
    | some l => s.byteAt l
    | none => 0

/-- Whether a byte of n at a lies in a poisoned unit. -/
def State.anyPoison (s : State) (next : Bool) (a n : Nat) : Bool :=
  (List.range n).any fun i => match s.locate next (a + i) with
    | some l => s.poisoned l.word
    | none => false

/-- The die that holds a symbol of a line's code word: each die holds five, four of data and one of check (R258; the numbers
are a DESIGN CHOICE, log 128). -/
def symbolDie (y : Nat) : Nat := y / 5

/-- The number of the wire that carries a symbol of a line in its stack: one wire of the line's channel each (R258, log 128). -/
def symbolWire (line y : Nat) : Nat := (channelOf line).val * 80 + y

/-- Whether a symbol of a line is erased: its die or its wire is marked (R259). -/
def Stack.erased (x : Stack) (line y : Nat) : Bool :=
  x.erasedDies.getLsbD (symbolDie y) || x.erasedWires.contains (symbolWire line y)

/-- Whether the code corrects a line with the symbols of a list wrong: 2e + f ≤ 16, for e of them outside the erased symbols
and f erased symbols (R259). -/
def Stack.corrects (x : Stack) (line : Nat) (ys : List Nat) : Bool :=
  let e := ((List.range 80).filter fun y => ys.contains y && !x.erased line y).length
  let f := ((List.range 80).filter fun y => x.erased line y).length
  decide (2 * e + f ≤ 16)

/-- A corrected symbol counts toward the mark of its die, more than 16 lines within 1 s, and of its wire, more than 16
transfers within 1 ms (R259). -/
def Stack.markHits (x : Stack) (now : Word) (line y : Nat) : Stack :=
  let d := symbolDie y
  let w := symbolWire line y
  let dies := (x.dieHits.filter fun h => !(h.1 == d && h.2.1 == line) && (now - h.2.2).toNat ≤ 1000000000) ++ [(d, line, now)]
  let wires := (x.wireHits.filter fun h => (now - h.2.2).toNat ≤ 1000000) ++ [(w, line, now)]
  { x with dieHits := dies, wireHits := wires
           erasedDies := if (dies.filter fun h => h.1 == d).length > 16 then x.erasedDies ||| BitVec.ofNat 16 (2 ^ d)
             else x.erasedDies
           erasedWires := if (wires.filter fun h => h.1 == w).length > 16 then NatSet.add x.erasedWires w else x.erasedWires }

/-- The code finds an error in a word: it is counted, and one it does not correct poisons the word (R235, R258, R518). -/
def State.wordError (s : State) (w : Loc) (bad : Bool) : State :=
  let s := s.countEcc w bad
  if bad then s.setPoison w true else s

/-- Wrong symbols of a stack's line: corrected, with what that counts toward marks, or not (R258 to R260). -/
def State.lineError (s : State) (k : StackId) (line : Nat) (ys : List (Fin 80)) : State :=
  let ys := (ys.map Fin.val).eraseDups
  let x := s.stack[k]
  if ys.isEmpty then s
  else if x.corrects line ys then
    (s.wordError (.insole k line) false).modStack k fun z =>
      ys.foldl (fun z y => if x.erased line y then z else z.markHits s.now line y) z
  else s.wordError (.insole k line) true

/-- The errors of e that lie in words of a list. -/
def State.wordErrors (s : State) (next : Bool) (ws : List Loc) (e : Ecc) : State :=
  match e with
  | .words xs => xs.foldl (fun s x =>
      match s.locate next x.1 with
      | some l => if ws.contains l.word then s.wordError l.word x.2 else s
      | none => s) s
  | .symbols xs => xs.foldl (fun s x =>
      match (s.locate next x.1).map Loc.word with
      | some (.insole k l) => if ws.contains (.insole k l) then s.lineError k l x.2 else s
      | _ => s) s
  | _ => s

/-- What is left of e once the words of a list have been read. -/
def State.eccLeft (s : State) (next : Bool) (ws : List Loc) (e : Ecc) : Ecc :=
  let out := fun (a : Nat) => match s.locate next a with
    | some l => !ws.contains l.word
    | none => true
  match e with
  | .words xs => .words (xs.filter fun x => out x.1)
  | .symbols xs => .symbols (xs.filter fun x => out x.1)
  | _ => .clean

/-- The words that n bytes at a lie in. -/
def State.wordsOf (s : State) (next : Bool) (a n : Nat) : List Loc :=
  ((List.range n).filterMap fun i => (s.locate next (a + i)).map Loc.word).eraseDups

/-- A read of n bytes at a, with what the code finds in their words: the state after, the status, and the bytes,
which are delivered only with OK (R76, R235, R258, R518). -/
def State.readMem (s : State) (next : Bool) (a n : Nat) (e : Ecc) : State × Status × List Byte :=
  let s := match e with
    | .clean => s
    | .words _ => s.wordErrors next (s.wordsOf next a n) e
    | .symbols _ => s.wordErrors next (s.wordsOf next a n) e
    | e => match s.locate next a with
      | none => s
      | some l => s.wordError l.word (e == .uncorrectable)
  if s.anyPoison next a n then (s, .eccUncorrectable, []) else (s, .ok, s.bytes next a n)

/-- Write one byte at once; a byte of an epoch granule goes to E+1 after the copy of R254, and ends the replay snapshot
(R372). A byte in no space is dropped. -/
def State.writeByte (s : State) (a : Nat) (b : Byte) : State :=
  if a < 0x18000000000 then
    match s.ins.place a with
    | none => s
    | some (k, off) =>
      if s.ins.isEpoch (a / 4096) then
        let h := off / 4096 * 4096
        let t := s.ins.twinOff k (a / 4096)
        let s := s.modStack k fun x =>
          let x := x.touch h t
          { x with dram := x.dram.write (x.nextAt h t + off % 4096) b }
        { s with awl := { s.awl with snapValid := false } }
      else s.modStack k fun x => { x with dram := x.dram.write off b }
  else
    match s.locate true a with
    | some (.welt off) => { s with welt := { s.welt with mem := s.welt.mem.write off b } }
    | some (.scratch n off) => s.modArch n fun x => { x with scratch := x.scratch.write off b }
    | _ => s

/-- A write of bytes at given addresses, at once: a unit of error correction that it covers whole loses its poison, and a
poisoned one that it covers in part keeps it, which the answer reports (R236, R260, R518). -/
def State.writeNow (s : State) (cells : List (Nat × Byte)) : State × Bool :=
  let s := cells.foldl (fun s c => s.writeByte c.1 c.2) s
  let words := (cells.filterMap fun c => (s.locate true c.1).map fun l => (l.word, l.wordBytes)).eraseDups
  words.foldl (fun (acc : State × Bool) w =>
    let got := (cells.map Prod.fst).eraseDups.filter fun a => (acc.1.locate true a).map Loc.word == some w.1
    if !acc.1.poisoned w.1 then acc
    else if got.length ≥ w.2 then (acc.1.setPoison w.1 false, acc.2)
    else (acc.1, true)) (s, false)

/-! ### Epoch writes and decisions (R254 to R256) -/

/-- Decisions that stack k has acted on. -/
def State.stepOf (s : State) (k : StackId) : Nat := s.step.given - s.stack[k].decisions.length

/-- Stack k acts on the oldest decision it holds, and the epoch writes that were accepted after it and before the next one
are made (R255). -/
def State.actStack (s : State) (k : StackId) : State :=
  if s.stack[k].decisions.isEmpty then s
  else
    let s := s.modStack k Stack.act
    let due := s.stack[k].late.filter fun w => w.1 ≤ s.stepOf k
    let s := s.modStack k fun x => { x with late := x.late.filter fun w => !decide (w.1 ≤ s.stepOf k) }
    due.foldl (fun s w => (s.writeNow w.2).1) s

/-- Every stack acts on every decision it holds. -/
def State.actAll (s : State) : State :=
  forN 24 (fun i s => forN s.stack[(Fin.ofNat 24 i : StackId)].decisions.length (fun _ s => s.actStack (Fin.ofNat 24 i)) s) s

/-- Whether a write at an address waits: it goes to an epoch granule of a stack that holds a decision (R255). -/
def State.waitsAt (s : State) (a : Nat) : Bool :=
  decide (a < 0x18000000000) && s.ins.isEpoch (a / 4096) &&
    match s.ins.place a with
    | some (k, _) => !s.stack[k].decisions.isEmpty
    | none => false

/-- Cells that stack k holds until it has acted on the decisions it holds. -/
def State.holdCells (s : State) (k : StackId) (cells : List (Nat × Byte)) : State :=
  let mine := cells.filter fun c => (s.ins.place c.1).map Prod.fst == some k
  if mine.isEmpty then s else s.modStack k fun x => { x with late := x.late ++ [(s.step.given, mine)] }

/-- A write of bytes at given addresses (R236, R254, R260, R518). Bytes of epoch granules that a stack accepts while it holds
a decision belong to the next step: they are made once it has acted, and end the replay snapshot (R255, R372). The answer
tells whether a poisoned word was covered in part. -/
def State.writeCells (s : State) (cells : List (Nat × Byte)) : State × Bool :=
  let held := cells.filter fun c => s.waitsAt c.1
  if held.isEmpty then s.writeNow cells
  else
    let (t, bad) := s.writeNow (cells.filter fun c => !s.waitsAt c.1)
    let part := (t.actAll.writeNow held).2
    let t := forN 24 (fun i t => t.holdCells (Fin.ofNat 24 i) held) t
    ({ t with awl := { t.awl with snapValid := false } }, bad || part)

/-- The words that a write of cells covers in part. -/
def State.partWords (s : State) (cells : List (Nat × Byte)) : List Loc :=
  let as := (cells.map Prod.fst).eraseDups
  ((as.filterMap fun a => (s.locate true a).map fun l => (l.word, l.wordBytes)).eraseDups.filter fun w =>
    decide ((as.filter fun a => (s.locate true a).map Loc.word == some w.1).length < w.2)).map Prod.fst

/-- What the code finds as a write reads the words that it covers in part (R235, R236). -/
def State.maskedErrors (s : State) (cells : List (Nat × Byte)) (e : Ecc) : State :=
  match e with
  | .words _ => s.wordErrors true (s.partWords cells) e
  | .symbols _ => s.wordErrors true (s.partWords cells) e
  | _ => s

/-- What the code finds in staging as a block is read, the errors being given by their addresses: each is counted, and the
answer tells whether the block has a word that fails its code, or that the scrub found failing. The block goes back and is
written whole by its next producer, which ends the poison (R235, R236). -/
def State.stagingErrors (s : State) (e : Ecc) : State × Bool :=
  match e with
  | .words xs => xs.foldl (fun (r : State × Bool) x =>
      let o := x.1 - weltBase
      if x.1 < weltBase || o < s.welt.areaOn.toNat * 2 ^ 18 || 2 ^ 29 ≤ o then r
      else
        let w : Loc := .welt (o / 16)
        if r.1.poisoned w then (r.1.setPoison w false, true) else (r.1.countEcc w x.2, r.2 || x.2)) (s, false)
  | _ => (s, false)

/-- A write of consecutive bytes. -/
def State.writeMem (s : State) (a : Nat) (bs : List Byte) : State × Bool :=
  s.writeCells ((List.range bs.length).zip bs |>.map fun p => (a + p.1, p.2))

/-- The address of a byte of a core's own scratch. -/
def scratchAddr (n : Core) (off : Nat) : Nat := scratchBase + n.val * 2 ^ 24 + off

/-- Write consecutive bytes of a core's own scratch. -/
def State.writeScratch (s : State) (n : Core) (off : Nat) (bs : List Byte) : State × Bool :=
  s.writeMem (scratchAddr n off) bs

/-- Read consecutive bytes of a core's own scratch. -/
def State.readScratch (s : State) (n : Core) (off len : Nat) (e : Ecc) : State × Status × List Byte :=
  s.readMem false (scratchAddr n off) len e

/-- Bytes of a descriptor as the instruction numbered id may read them: a word that a store has changed since it issued is
as it was before the store or as it is (R203). -/
def CoreSt.asRead (c : CoreSt) (id off : Nat) (bs : List Byte) : List Byte :=
  c.stale.zipIdx.foldl (fun bs x =>
    if id < x.1.1 && Config.readsOld id x.1.2.1 x.2 then
      bs.zipIdx.map fun b => if (off + b.2) / 8 = x.1.2.1 then x.1.2.2.getD ((off + b.2) % 8) 0 else b.1
    else bs) bs

/-- The instruction numbered id reads bytes of its descriptor or command block from its core's scratch (R203). -/
def State.readDesc (s : State) (n : Core) (id off len : Nat) (e : Ecc) : State × Status × List Byte :=
  let r := s.readScratch n off len e
  (r.1, r.2.1, (s.core n).asRead id off r.2.2)

/-- Keep the word at an offset as a store will find it, while instructions wait to start (R203). -/
def CoreSt.noteStale (c : CoreSt) (o : Nat) : CoreSt :=
  let ids := (c.mx.waiting ++ c.mv.waiting ++ c.vx.waiting ++ c.stq.waiting ++ c.cl.waiting).map QEntry.id
  if ids.isEmpty then { c with stale := [] }
  else
    { c with stale := (c.nextId, o / 8, c.arch.scratch.readN (o / 8 * 8) 8) ::
      c.stale.filter fun x => ids.any fun i => i < x.1 }

/-- Whether a stack takes requests: a unit in reset answers REFUSED_RESET through its proxy (R277, R483). -/
def Stack.serves (k : Stack) : Bool := k.state == .ready

/-- The number and the unit epoch of the unit with an epoch that holds an address: a core by its number, stack k as 16 + k
(R484, R485). -/
def State.unitAt (s : State) (a : Nat) : Option (Nat × BitVec 4) :=
  match s.locate false a with
  | some (.insole k _) => some (16 + k.val, s.stack[k].uepoch)
  | some (.scratch n _) => some (n.val, s.clk.coreEpoch[n])
  | _ => none

/-- Whether units still have the epochs of a list: a reply that carries another is dropped (R484). -/
def State.sameEpochs (s : State) (us : List (Nat × BitVec 4)) : Bool :=
  us.all fun u =>
    if u.1 < 16 then s.clk.coreEpoch[(Fin.ofNat 16 u.1 : Core)] == u.2 else s.stack[(Fin.ofNat 24 (u.1 - 16) : StackId)].uepoch == u.2

/-- Whether the unit that holds an address takes requests (R277, R483, R485). -/
def State.serves (s : State) (a : Nat) : Bool :=
  match s.locate false a with
  | some (.insole k _) => (s.stack[k]).serves
  | some (.scratch n _) => (s.core n).phase == .service
  | _ => true

/-! ### Staging blocks -/

/-- The code of a traffic class (R226). -/
def classIdx (c : WeltClass) : Fin 7 :=
  match c with
  | .req => 0 | .rsp => 1 | .fwd => 2 | .col => 3 | .ing => 4 | .mem => 5 | .ctl => 6

/-- Blocks of staging (R225, R232). -/
def Welt.staging (w : Welt) : Nat := 131072 - w.areaOn.toNat * 64

/-- Blocks of the shared pool: what no reservation in effect covers (R227). -/
def Welt.poolSize (w : Welt) : Nat := w.staging - (w.resOn.toList.map fun r => r.res.toNat).sum

/-- Free blocks of the shared pool. -/
def Welt.poolFree (w : Welt) : Nat := w.poolSize - (w.use.toList.map ClassUse.shared).sum

/-- The port among the 46 of R17 by which a user takes blocks: cores 0 to 15, stacks 16 to 39, the router 40, the Clicker 44
and the control complex 45. -/
def BlockUser.port (u : BlockUser) : Nat :=
  match u with
  | .stream n _ => n.val
  | .stack k => 16 + k.val
  | .input _ _ => 40
  | .clicker => 44
  | .control => 45

/-- Owners of guaranteed shares of a class, numbered from 0 (R228). -/
def owners (c : WeltClass) : Nat :=
  match c with
  | .req => 17 | .rsp => 17 | .fwd => 8 | .mem => 40 | _ => 1

/-- Blocks of class c's reservation that are guaranteed to an owner (R228). -/
def Welt.share (w : Welt) (c : WeltClass) (x : Nat) : Nat :=
  match c with
  | .req => if x < 16 then 32 else 256
  | .rsp => if x < 16 then 32 else 256
  | .fwd => (vgetD w.fwdvcOn x 0).toNat
  | .mem => if x < 16 then 544 else 16
  | _ => (w.resOn[classIdx c]).res.toNat

/-- Blocks of the reservation that an owner holds. -/
def ClassUse.heldBy (u : ClassUse) (x : Nat) : Nat := SMap.get 0 u.held x

/-- Blocks of the reservation that are kept for the other owners of shares (R228). -/
def Welt.promised (w : Welt) (c : WeltClass) (x : Nat) : Nat :=
  ((List.range (owners c)).map fun y => if y = x then 0 else w.share c y - (w.use[classIdx c]).heldBy y).sum

/-- Where a block for an owner comes from: the reservation (false), the shared pool (true), or nowhere, and its client
waits (R227, R228). An owner's share is never given to another, and a packet in transit moves only into its channel's share
(R306); otherwise what the shares leave of the reservation comes first (DEDUCED: R227 and R228 together, log 126). -/
def Welt.source (w : Welt) (c : WeltClass) (x : Nat) : Option Bool :=
  let u := w.use[classIdx c]
  let r := w.resOn[classIdx c]
  if u.heldBy x < w.share c x then some false
  else if c == .fwd then none
  else if u.used < r.res.toNat && u.used - u.shared + w.promised c x < r.res.toNat then some false
  else if c != .col && u.used < r.cap.toNat && w.poolFree > 0 then some true
  else none

/-- A block of a class is taken for an owner. -/
def Welt.takeBlock (w : Welt) (c : WeltClass) (x : Nat) (pool : Bool) : Welt :=
  let u := w.use[classIdx c]
  let u : ClassUse :=
    { used := u.used + 1, shared := if pool then u.shared + 1 else u.shared, peak := max u.peak (u.used + 1)
      held := if pool then u.held else SMap.put 0 u.held x (u.heldBy x + 1) }
  { w with use := vput w.use (classIdx c) u }

/-- The waiting request whose turn it is: of those for which there is a block, the ports in round-robin order after the one
granted last, and the oldest request of the port (R227). -/
def Welt.nextWait (w : Welt) (c : WeltClass) : Option BlockWait :=
  let i := classIdx c
  let ready := w.wait[i].filter fun q => (w.source c q.owner).isSome
  if ready.isEmpty then none
  else (List.range 46).findSome? fun j => ready.find? fun q => q.user.port == (w.lastPort[i] + 1 + j) % 46

/-- The next waiting request is granted a block, which its user takes when it acts (R227). -/
def Welt.grant (w : Welt) (c : WeltClass) : Option (BlockUser × Welt) :=
  match w.nextWait c with
  | none => none
  | some q =>
    let i := classIdx c
    let pool := (w.source c q.owner).getD false
    let w := w.takeBlock c q.owner pool
    some (q.user, { w with wait := vmod w.wait i fun xs => xs.erase q, granted := vmod w.granted i fun xs => xs ++ [(q, pool)]
                           lastPort := vput w.lastPort i q.user.port })

/-- A user takes a block: one granted to it while it waited, or a new one where there is a block and no other request is
next; where it must wait, its request is noted (R227). The answer tells whether the block comes from the shared pool. -/
def Welt.claim (w : Welt) (c : WeltClass) (q : BlockWait) : Welt × Option Bool :=
  let i := classIdx c
  let note := { w with wait := vmod w.wait i fun xs => if xs.contains q then xs else xs ++ [q] }
  match w.granted[i].find? fun g => g.1 == q with
  | some g => ({ w with granted := vmod w.granted i fun xs => xs.erase g }, some g.2)
  | none =>
    if ((w.nextWait c).getD q) != q then (note, none)
    else
      match w.source c q.owner with
      | none => (note, none)
      | some pool =>
        let w := w.takeBlock c q.owner pool
        ({ w with wait := vmod w.wait i fun xs => xs.erase q, lastPort := vput w.lastPort i q.user.port }, some pool)

/-- A block goes back where it came from: to the shared pool, or to the reservation (R230). -/
def Welt.give (w : Welt) (c : WeltClass) (x : Nat) (pool : Bool) : Welt :=
  let u := w.use[classIdx c]
  let u := { u with used := u.used - 1, shared := if pool then u.shared - 1 else u.shared
                    held := if pool then u.held else SMap.put 0 u.held x (u.heldBy x - 1) }
  { w with use := vput w.use (classIdx c) u }

/-- Return a block of a class that an owner held (R230). -/
def State.giveBlock (s : State) (c : WeltClass) (x : Nat) (pool : Bool) : State := { s with welt := s.welt.give c x pool }

/-- Requests that a test picks wait for no block of a class any more, and what was granted to them goes back (R227, R230). -/
def Welt.withdraw (w : Welt) (c : WeltClass) (out : BlockWait → Bool) : Welt :=
  let i := classIdx c
  let mine := w.granted[i].filter fun g => out g.1
  let w := { w with wait := vmod w.wait i fun xs => xs.filter fun q => !out q
                    granted := vmod w.granted i fun xs => xs.filter fun g => !out g.1 }
  mine.foldl (fun w g => w.give c g.1.owner g.2) w

/-- Take k blocks of a class, or none of them: the answer tells of each whether it came from the shared pool. Where it must
wait its request is noted (R227, R229). -/
def Welt.claimAll (w : Welt) (c : WeltClass) (q : BlockWait) (k : Nat) : Welt × Option (List Bool) :=
  let r := forN k (fun _ (a : Welt × Option (List Bool)) =>
    match a.2 with
    | none => a
    | some bs =>
      let (v, b) := a.1.claim c q
      (v, b.map fun b => bs ++ [b])) (w, some [])
  if r.2.isSome then r
  else ({ w with wait := vmod w.wait (classIdx c) fun xs => if xs.contains q then xs else xs ++ [q] }, none)

/-- A transfer through the Welt takes k blocks of a class and returns them when it is done; it does nothing where a block is
not to be had, and the request is noted (R15, R227, R229, R230). -/
def State.throughWelt (s : State) (c : WeltClass) (q : BlockWait) (k : Nat) (f : State → State) : State :=
  match s.welt.claimAll c q k with
  | (w, none) => { s with welt := w }
  | (w, some bs) => bs.foldl (fun (s : State) b => s.giveBlock c q.owner b) (f { s with welt := w })

/-! ### Banks of the Welt (R222, R223) -/

/-- The bank that holds line L of the Welt: L[10:0] xor L[21:11] (R222). -/
def bankOf (line : Nat) : Nat := (line % 2048) ^^^ (line / 2048 % 2048)

/-- The row of its bank in which line L lies: L[22:11] (R222). -/
def rowOf (line : Nat) : Nat := line / 2048 % 4096

/-- The field a bank lies in: b[10:9] (R222). -/
def bankField (b : Nat) : Fin 4 := Fin.ofNat 4 (b / 512)

/-- The line in a row of a bank, the inverse of R222's mapping. -/
def lineIn (bank row : Nat) : Nat := row * 2048 + (bank ^^^ (row % 2048))

end Sys2Proof.Machine
end

