-- ==== Sys2Proof/Machine/Cache.lean ====
section
/-! DEFINITION. The caches of the harts (R4, R416 to R421). The harts keep them coherent with one another, so they are one set
of lines; nothing keeps them coherent with the engines (R417). -/

namespace Sys2Proof.Machine

/-- Lines that the harts' caches hold together: 64 KiB of data cache and 1 MiB of L2 for each of 24 harts, and 48 MiB of L3
(R416). -/
def cacheLines : Nat := (24 * (64 * 1024 + 2 ^ 20) + 48 * 2 ^ 20) / 64

/-- The control complex's request for a CTL block (R226). -/
def ctlBlock : BlockWait := { user := .control, owner := 0 }

/-- Whether a memory address is cacheable: mapped Insole memory and the Welt program area are, scratches are not (R417). -/
def State.cacheable (s : State) (a : Nat) : Bool :=
  match s.locate false a with
  | some (.insole _ _) => true
  | some (.welt _) => true
  | _ => false

/-- Whether stores to a line go to E+1: it lies in an epoch granule (R417). -/
def State.lineNext (s : State) (l : Nat) : Bool := decide (l * 64 < 0x18000000000) && s.ins.isEpoch (l / 64)

/-- The cached copy of a line, of E or of E+1. -/
def State.cached (s : State) (next : Bool) (l : Nat) : Option CacheLine :=
  s.ctx.cache.find? fun x => x.line == l && x.next == next

/-- The lines that n bytes at a touch. -/
def linesOf (a n : Nat) : List Nat := (List.range ((a + n + 63) / 64 - a / 64)).map (a / 64 + ·)

/-- Whether a line must be read from memory before its copy can be used. -/
def State.misses (s : State) (next : Bool) (l : Nat) : Bool :=
  (s.cached next l).isNone && !(s.ctx.wb.any fun w => w.line == l && (next == s.lineNext l))

/-- A line is put into the caches; where they are full, one they hold, which one being free, is evicted (R420, R421). -/
def State.allocate (s : State) (x : CacheLine) : State :=
  let (s, kept) := if s.ctx.cache.length < cacheLines then (s, s.ctx.cache)
    else
      let (i, s) := s.fresh
      let v := (Config.free i).toNat % max 1 s.ctx.cache.length
      let out := (s.ctx.cache.drop v).take 1
      let wb := (out.filter CacheLine.dirty).map fun y => { hart := none, line := y.line, data := y.data : WriteBack }
      ({ s with ctx := { s.ctx with wb := s.ctx.wb ++ wb } }, s.ctx.cache.eraseIdx v)
  { s with ctx := { s.ctx with cache := kept ++ [x] } }

/-- The copy of a line is in the caches: it was, or it is taken from a write-back under way, or it is read from memory, with what
the code finds; a line that fails its code is not allocated (R418). The answer tells whether the copy is there. -/
def State.fillLine (s : State) (next : Bool) (l : Nat) (e : Ecc) : State × Bool :=
  if (s.cached next l).isSome then (s, true)
  else
    match (s.ctx.wb.filter fun w => w.line == l && (next == s.lineNext l)).getLast? with
    | some w => (s.allocate { line := l, next := next, dirty := false, data := w.data }, true)
    | none =>
      let (s, st, bs) := s.readMem next (l * 64) 64 e
      if st = .ok then (s.allocate { line := l, next := next, dirty := false, data := bs }, true) else (s, false)

/-- The copies of lines are in the caches; the answer tells whether all are. -/
def State.fillLines (s : State) (next : Nat → Bool) (ls : List Nat) (e : Ecc) : State × Bool :=
  ls.foldl (fun (r : State × Bool) l =>
    let (t, ok) := r.1.fillLine (next l) l e
    (t, r.2 && ok)) (s, true)

/-- The byte at an address in the copy of its line. -/
def State.cachedByte (s : State) (next : Bool) (a : Nat) : Byte :=
  match s.cached next (a / 64) with
  | some x => (x.data.drop (a % 64)).headD 0
  | none => 0

/-- Change bytes of cached lines, which are dirty then. -/
def State.storeCached (s : State) (cells : List (Nat × Byte)) : State :=
  cells.foldl (fun s c =>
    let l := c.1 / 64
    let next := s.lineNext l
    { s with ctx := { s.ctx with cache := s.ctx.cache.map fun x =>
        if x.line == l && x.next == next then { x with dirty := true, data := x.data.set (c.1 % 64) c.2 } else x } }) s

/-- The dirty copies of a line are sent to memory; the hart whose CBO did it waits for them at its next FENCE with successor O,
none where the cache evicts of itself (R420). -/
def State.writeBack (s : State) (h : Option Hart) (l : Nat) : State :=
  let out := s.ctx.cache.filter fun x => x.line == l && x.dirty
  { s with ctx := { s.ctx with
      wb := s.ctx.wb ++ out.map fun x => { hart := h, line := l, data := x.data }
      cache := s.ctx.cache.map fun x => if x.line == l then { x with dirty := false } else x } }

/-- Every copy of a line leaves the caches. -/
def State.dropLine (s : State) (l : Nat) : State :=
  { s with ctx := { s.ctx with cache := s.ctx.cache.filter fun x => x.line != l } }

/-- A write-back under way is acknowledged: its 64 B are in the Welt or the stack, and visible (R55, R420). It waits while its
stack takes no requests, or for a CTL block (R229, R277). -/
def State.land (s : State) (w : WriteBack) : State :=
  if !s.serves (w.line * 64) then s
  else s.throughWelt .ctl ctlBlock 1 fun s =>
    let s := (s.writeMem (w.line * 64) w.data).1
    { s with ctx := { s.ctx with wb := s.ctx.wb.erase w } }

/-- The oldest write-back under way that can be acknowledged is. -/
def State.landNext (s : State) : State :=
  match s.ctx.wb.find? fun w => s.serves (w.line * 64) with
  | some w => s.land w
  | none => s

/-- Every write-back that a hart's FENCE waits for is acknowledged, with those of the same lines before them, as far as they
can be (R420). -/
def State.landFor (s : State) (h : Hart) : State :=
  let mine := fun (w : WriteBack) => s.ctx.wb.any fun v => v.hart == some h && v.line == w.line
  (s.ctx.wb.filter mine).foldl State.land s

/-- Whether a hart's CBO.CLEAN and CBO.FLUSH have all been acknowledged (R420). -/
def State.published (s : State) (h : Hart) : Bool := s.ctx.wb.all fun w => w.hart != some h

end Sys2Proof.Machine
end

