-- ==== Sys2Proof/Machine/Net.lean ====
section
/-! DEFINITION. Coordinates, routes and packets of the torus fabric, as the part's own units use them (R286, R296 to
R306, R312, R330). -/

namespace Sys2Proof.Machine

/-- Pack (t, c, p, d) into 16 bits (R300). -/
def packCoord (t c p d : Nat) : Coord :=
  BitVec.ofNat 16 (t % 8 + c % 16 * 8 + p % 16 * 128 + d % 32 * 2048)

/-- Coordinate x on axis i: 0 T, 1 C, 2 P, 3 D (R286, R300). -/
def coordAt (x : Coord) (i : Nat) : Nat :=
  match i with
  | 0 => bitsOf x 2 0 | 1 => bitsOf x 6 3 | 2 => bitsOf x 10 7 | _ => bitsOf x 15 11

/-- Replace the coordinate on axis i. -/
def coordSet (x : Coord) (i v : Nat) : Coord :=
  packCoord (if i = 0 then v else coordAt x 0) (if i = 1 then v else coordAt x 1)
    (if i = 2 then v else coordAt x 2) (if i = 3 then v else coordAt x 3)

/-- The serial hash: bytes 0 to 3 of the SHA-512 digest of the 16 serial bytes (R435). -/
def State.serialHash (s : State) : BitVec 32 := (Config.sha512 (s.cbl.fuses.readN 0 16)).truncate 32

/-- This part's coordinate (R300, R317). -/
def State.coord (s : State) : Coord := packCoord s.fab.t.toNat s.fab.c.toNat s.fab.p.toNat s.fab.d.toNat

/-- The extent in effect on axis i, in the order t, c, p, d (R288, R317). -/
def State.extent (s : State) (i : Nat) : Nat := (vgetD s.fab.extOn i 0).toNat

/-- The extent that FAB_TOPO holds for axis i, applied or not (R317, R332). -/
def State.extentWritten (s : State) (i : Nat) : Nat :=
  (vgetD #v[s.fab.extT, s.fab.extC, s.fab.extP, s.fab.extD] i 0).toNat

/-- Whether a coordinate lies within the extents (R301, R501). -/
def State.inExtents (s : State) (x : Coord) : Bool := (List.range 4).all fun i => coordAt x i < s.extent i

/-- Whether a coordinate is valid in the fence table (R312). -/
def State.fencedCoord (s : State) (x : Coord) : Bool := s.fab.ftbl.toList.any fun e => e.valid && e.coord == x

/-- The port by which a packet for a coordinate leaves, by dimension order; none when it is this part's own (R302,
R303). -/
def State.route (s : State) (dst : Coord) : Option Port :=
  match (List.range 4).find? fun i => coordAt dst i != coordAt s.coord i with
  | none => none
  | some i =>
    let x := s.extent i
    let f := (((coordAt dst i : Int) - coordAt s.coord i) % (x : Int)).toNat
    some (Fin.ofNat 8 (2 * i + if f > x - f then 1 else 0))

/-- Whether a hop out of port p crosses the dateline of its axis (R305). -/
def State.crosses (s : State) (p : Port) : Bool :=
  let i := p.val / 2
  let x := coordAt s.coord i
  if p.val % 2 == 0 then x + 1 == s.extent i else x == 0

/-- The virtual channel of a class and dateline bit (R305). -/
def channel (cls : Nat) (dl : Bool) : Nat := 2 * cls + b2n dl

/-- The 16 B header of a packet, byte 0 first (R296). -/
def packetHeader (k : Packet) : List Byte :=
  leBytes 16 (k.arg.toNat * 2 ^ 80 + k.ctx.toNat * 2 ^ 64 + k.len.toNat * 2 ^ 52 + k.uepoch.toNat * 2 ^ 48 +
    k.src.toNat * 2 ^ 32 + k.dst.toNat * 2 ^ 16 + k.dunit.toNat * 2 ^ 10 + b2n k.resv * 2 ^ 9 + b2n k.echo * 2 ^ 8 +
    b2n k.mark * 2 ^ 7 + b2n k.dl * 2 ^ 6 + k.cls.toNat * 2 ^ 4 + k.kind.toNat)

/-- The CRC-32C over a packet's header and payload (R296). -/
def packetSum (k : Packet) : BitVec 32 := crc32c (packetHeader k ++ k.payload)

/-- A packet as a router sends it, with its CRC computed anew (R296). -/
def sealed (k : Packet) : Packet := { k with crc := packetSum k }

/-- The bytes of a packet on a link: header, payload and CRC (R296). -/
def wireBytes (k : Packet) : List Byte := packetHeader k ++ k.payload ++ leBytes 4 k.crc.toNat

/-- Count a packet discarded because its port was not UP (R295, R315). -/
def State.countDrop (s : State) (p : Port) : State :=
  { s with fab := { s.fab with port := vmod s.fab.port p fun x => { x with drop := satAdd x.drop 1 } } }

/-- Hand a packet to the router: a fenced part injects nothing, a fenced coordinate gets nothing, a packet for a port
that is not UP is discarded and counted, any other waits for its port on its channel (R295, R305, R311, R312). A packet for
this part itself does not come here (R302). -/
def State.send (s : State) (k : Packet) : State :=
  if s.fab.fenced || s.fencedCoord k.dst || s.fencedCoord k.src || s.clk.state == .fault then s
  else
    match s.route k.dst with
    | none => s
    | some p =>
      if s.fab.port[p].state == .up then
        let dl := s.crosses p
        { s with fab := { s.fab with inject := s.fab.inject ++ [(p.val, channel k.cls.toNat dl, { k with dl := dl })] } }
      else s.countDrop p

/-- Hand several packets to the router in order. -/
def State.sendAll (s : State) (ks : List Packet) : State := ks.foldl State.send s

/-- Under inject_stop, packets that wait for injection end when what sent them reaches its time limit (R314). -/
def State.endWaiting (s : State) (out : Packet → Bool) : State :=
  if s.fab.injectStop then { s with fab := { s.fab with inject := s.fab.inject.filter fun x => !out x.2.2 } } else s

/-- A packet from this part with every unnamed field zero (R296). -/
def State.packet (s : State) (dst : Coord) (cls kind dunit : Nat) (arg : BitVec 48) (ctx : BitVec 16) (len : Nat)
    (payload : List Byte) : Packet :=
  { arg := arg, ctx := ctx, len := BitVec.ofNat 12 len, uepoch := 0, src := s.coord, dst := dst
    dunit := BitVec.ofNat 6 dunit, resv := false, echo := false, mark := false, dl := false, cls := BitVec.ofNat 2 cls
    kind := BitVec.ofNat 4 kind, payload := payload, good := true }

/-! ### Communicator geometry (R330, R354) -/

/-- The configuration in effect of communicator c: CLE_COMMn and the pool size. -/
def State.commOn (s : State) (c : Comm) : Option (Word × BitVec 16) :=
  (SMap.get CommSt.reset s.coll.comms c.toNat).on

/-- Change communicator c. -/
def State.modComm (s : State) (c : Comm) (f : CommSt → CommSt) : State :=
  let x := f (SMap.get CommSt.reset s.coll.comms c.toNat)
  { s with coll := { s.coll with comms := SMap.put CommSt.reset s.coll.comms c.toNat x } }

/-- One axis of a communicator: its number 0 or 1, its fabric axis, base and group size. -/
structure GroupAxis where
  no : Nat
  ax : Nat
  base : Nat
  g : Nat
deriving DecidableEq, Repr

/-- The enabled axes of a configuration word (R354). -/
def commAxes (w : Word) : List GroupAxis :=
  (if bitOf w 12 then [{ no := 0, ax := bitsOf w 11 10, base := bitsOf w 4 0, g := bitsOf w 9 5 + 1 }] else []) ++
  (if bitOf w 25 then [{ no := 1, ax := bitsOf w 24 23, base := bitsOf w 17 13, g := bitsOf w 22 18 + 1 }] else [])

/-- The axes an axes field selects: 1 the first, 2 the second, 3 both (R213). -/
def selectAxes (w : Word) (sel : Nat) : List GroupAxis :=
  (commAxes w).filter fun a => bitOf (BitVec.ofNat 2 sel) a.no

/-- Group identifier and bound core (R354). -/
def commGid (w : Word) : Nat := bitsOf w 63 48
/-- The bound core (R329, R354). -/
def commCore (w : Word) : Core := Fin.ofNat 16 (bitsOf w 47 44)

/-- This part's position on a group axis (R330). -/
def State.posOn (s : State) (a : GroupAxis) : Nat := coordAt s.coord a.ax - a.base

/-- The coordinate of position q on a group axis, the other coordinates being this part's. -/
def State.peerOn (s : State) (a : GroupAxis) (q : Nat) : Coord := coordSet s.coord a.ax (a.base + q)

/-- Every member's coordinate over the axes given, in member order (R330). -/
def State.members (s : State) (axes : List GroupAxis) : List Coord :=
  match axes with
  | [] => [s.coord]
  | [a] => (List.range a.g).map fun q => s.peerOn a q
  | a :: b :: _ => (List.range b.g).flatMap fun q1 => (List.range a.g).map fun q0 =>
      coordSet (s.peerOn a q0) b.ax (b.base + q1)

end Sys2Proof.Machine
end

