-- ==== Sys2Proof/Machine/Ports.lean ====
section
/-! DEFINITION. Fabric ports and the packets a router holds: port states and their records (R289 to R291), leaving UP
(R315), blocks of held packets (R229, R230), fencing the router (R311, R312), and JOINED (R323, R466). -/

namespace Sys2Proof.Machine

/-! ### Packets held -/

/-- Change port p. -/
def State.modPort (s : State) (p : Port) (f : FabPort → FabPort) : State :=
  { s with fab := { s.fab with port := vmod s.fab.port p f } }

/-- The owner of inbound requests' blocks among those of REQ and RSP (R228). -/
def inboundOwner : Nat := 16

/-- The class of an inbound request's block (R229). -/
def inboundClass (k : Packet) : WeltClass := if k.kind == 0 then .rsp else .req

/-- The block a packet waiting for injection holds in the router's name: an inbound request's, kept for its reply (R229,
R230). -/
def replyBlock (k : Packet) : Option WeltClass := if k.kind == 2 then some .rsp else if k.kind == 3 then some .req else none

/-- Return the block of an inbound request, held as k, where it came from (R230). -/
def State.freeInbound (s : State) (c : WeltClass) (k : Packet) : State :=
  { s.giveBlock c inboundOwner (s.fab.pooled.contains k) with fab := { s.fab with pooled := s.fab.pooled.erase k } }

/-- Return the block of a reply that has left or was discarded. -/
def State.freeReply (s : State) (k : Packet) : State :=
  match replyBlock k with
  | some c => s.freeInbound c k
  | none => s

/-- The place of a packet of channel v at port p's input is free again: a port that is UP returns the credit (R306, R315). -/
def State.freePlace (s : State) (p : Port) (v : Nat) : State :=
  if s.fab.port[p].state == .up then
    s.modPort p fun y => { y with returned := vputD y.returned v (vgetD y.returned v 0 + 1) }
  else s

/-- The block that the packet at the head of channel v's places at port p waits for: its class, and who takes it; none where
it needs none (R229, R306). -/
def State.needOf (s : State) (p : Port) (v : Nat) (k : Packet) : Option (WeltClass × BlockWait) :=
  if k.dst == s.coord then some (inboundClass k, { user := .input p v, owner := inboundOwner })
  else
    match s.route k.dst with
    | none => none
    | some q =>
      if s.fab.port[q].state != .up then none
      else
        let dl := s.crosses q || (k.dl && q.val / 2 == p.val / 2)
        some (.fwd, { user := .input p v, owner := channel k.cls.toNat dl })

/-- What each packet at the head of a channel's places waits for, over every port. -/
def State.inputNeeds (s : State) : List (WeltClass × BlockWait) :=
  (List.finRange 8).flatMap fun p => (List.range 8).filterMap fun v =>
    (s.fab.port[p].inq.find? fun x => x.1 == v).bind fun x => s.needOf p v x.2

/-- Whether a request for a block is one of the inputs'. -/
def BlockWait.isInput (q : BlockWait) : Bool :=
  match q.user with
  | .input _ _ => true
  | _ => false

/-- The requests of the inputs for blocks follow what waits there: packets that are gone wait no more, and those that came
to the head of their places are noted (R227, R306). -/
def State.noteInputs (s : State) : State :=
  let needs := s.inputNeeds
  { s with welt := [WeltClass.req, .rsp, .fwd].foldl (fun (w : Welt) c =>
      let mine := (needs.filter fun x => x.1 == c).map Prod.snd
      let w := w.withdraw c fun q => q.isInput && !mine.contains q
      let old := w.wait[classIdx c]
      { w with wait := vput w.wait (classIdx c) (old ++ mine.filter fun q =>
          !old.contains q && !(w.granted[classIdx c].any fun g => g.1 == q)) }) s.welt }

/-- Discard the packets in FWD blocks and waiting for injection that a test picks; their blocks are returned (R230). -/
def State.dropHeld (s : State) (out : Nat → Packet → Bool) : State :=
  let fwd := s.fab.fwd.filter fun x => out x.2.1 x.2.2.2
  let inj := s.fab.inject.filter fun x => out x.1 x.2.2
  let s := fwd.foldl (fun (s : State) x => s.giveBlock .fwd x.2.2.1 false) s
  let s := inj.foldl (fun (s : State) x => s.freeReply x.2.2) s
  { s with fab := { s.fab with fwd := s.fab.fwd.filter fun x => !out x.2.1 x.2.2.2
                               inject := s.fab.inject.filter fun x => !out x.1 x.2.2 } }

/-- How many packets wait for port p, counting every channel and local injection (R310). -/
def State.waitingFor (s : State) (p : Port) : Nat :=
  (s.fab.fwd.filter fun x => x.2.1 == p.val).length + (s.fab.inject.filter fun x => x.1 == p.val).length

/-! ### Port states -/

/-- Lanes per direction of port p in effect (R288). -/
def State.portLanes (s : State) (p : Port) : Nat := bitsOf s.fab.lanesOn (p.val / 2 * 4 + 3) (p.val / 2 * 4)

/-- The status an event record of a state change carries (R291). -/
def reasonStatus (r : Nat) : Status :=
  match r with
  | 3 => .timeout | 4 => .timeout | 5 => .versionMismatch | 6 => .timeout | 7 => .topologyMismatch
  | 8 => .topologyMismatch | 9 => .topologyMismatch | 10 => .topologyMismatch | 11 => .topologyMismatch | 12 => .fenced
  | 13 => .fenced | _ => .ok

/-- The cause class of its record. -/
def reasonClass (r : Nat) : Nat := if r == 3 || r == 4 || r == 6 then linkCause else if r ≥ 5 && r != 12 then neighbour else 0

/-- The code of a link state (R326). -/
def LinkState.code (x : LinkState) : Nat :=
  match x with
  | .down => 0 | .training => 1 | .identify => 2 | .quarantine => 3 | .up => 4 | .fenced => 5

/-- Every port whose axis has lanes is UP (R323). -/
def State.allUp (s : State) : Bool :=
  (List.finRange 8).all fun p => s.portLanes p == 0 || s.fab.port[p].state == .up

/-- A part that is READY is JOINED once all_up is 1 (R466). -/
def State.checkJoined (s : State) : State :=
  if s.clk.state == .ready && s.allUp then { s with clk := { s.clk with state := .joined } } else s

/-- Packets waiting for a port that leaves UP are discarded and counted; the packet being sent completes (R315). -/
def State.leaveUp (s : State) (p : Port) : State :=
  let k := s.waitingFor p
  let s := s.dropHeld fun q _ => q == p.val
  s.modPort p fun x => { x with drop := satAdd x.drop k }

/-- Port p enters a state with a reason; a change of state is recorded and interrupts, and leaving UP runs the sequence of R315
(R289, R291, R423). -/
def State.portTo (s : State) (p : Port) (st : LinkState) (reason : Nat) : State :=
  let x := s.fab.port[p]
  let s := if x.state == .up && st != .up then s.leaveUp p else s
  let s := s.modPort p fun y =>
    let y := { y with state := st, reason := BitVec.ofNat 4 reason }
    if st == .up then
      (if x.state == .up then y else { y with credit := Vector.replicate 8 4, returned := Vector.replicate 8 0 })
    else
      let y := { y with ver := 0 }
      if st == .down || st == .training then { y with width := 0, lanesOk := 0, accept := false }
      else if st == .fenced then { y with accept := false } else y
  if x.state == st then s
  else
    let sev := if reason ≤ 2 then 0 else 1
    (s.irq 19).event 0x03 (0x10 + st.code) sev (reasonStatus reason) (reasonClass reason) p.val (BitVec.ofNat 64 reason)

/-- A port in DOWN trains at once where it is not disabled, its axis has lanes and its reason does not hold it (R289). -/
def State.tryTrain (s : State) (p : Port) : State :=
  let x := s.fab.port[p]
  if x.state == .down && !x.disable && s.portLanes p != 0 && !(x.reason == 4 || x.reason == 5 || x.reason == 6) then
    s.portTo p .training x.reason.toNat
  else s

/-- A port goes down with a reason; an axis without lanes gives reason 2 (R288, R289). -/
def State.portDown (s : State) (p : Port) (reason : Nat) : State :=
  (s.portTo p .down (if s.portLanes p == 0 then 2 else reason)).tryTrain p

/-! ### Fencing -/

/-- Every port in IDENTIFY, QUARANTINE or UP enters FENCED with reason 12, and the router discards what it holds in FWD
blocks, link inputs and local injection (R311). -/
def State.fenceRouter (s : State) : State :=
  let s := s.dropHeld fun _ _ => true
  let s := ({ s with fab := { s.fab with fenced := true, port := s.fab.port.map fun (p : FabPort) => { p with inq := [] } } }).noteInputs
  forN 8 (fun i s =>
    let p : Port := Fin.ofNat 8 i
    let x := s.fab.port[p].state
    if x == .identify || x == .quarantine || x == .up then s.portTo p .fenced 12 else s) s

/-- What a valid fence table entry does at once: packets with the coordinate are discarded wherever they are held, and a
port whose partner has it enters FENCED with reason 13 (R301, R312). -/
def State.fenceOut (s : State) (c : Coord) : State :=
  let bad := fun (k : Packet) => k.src == c || k.dst == c
  let n := (s.fab.fwd.filter fun x => bad x.2.2.2).length +
    (s.fab.port.toList.map fun p => (p.inq.filter fun x => bad x.2).length).sum
  let s := s.dropHeld fun _ k => bad k
  let gone := (List.finRange 8).flatMap fun (p : Port) => (s.fab.port[p].inq.filter fun x => bad x.2).map fun x => (p, x.1)
  let s := { s with fab := { s.fab with discFenced := satAdd s.fab.discFenced n
                                        port := s.fab.port.map fun p => { p with inq := p.inq.filter fun x => !bad x.2 } } }
  let s := (gone.foldl (fun (s : State) x => s.freePlace x.1 x.2) s).noteInputs
  forN 8 (fun i s =>
    let p : Port := Fin.ofNat 8 i
    let x := s.fab.port[p]
    if x.heard && BitVec.ofNat 16 (bitsOf x.part 15 0) == c &&
        (x.state == .identify || x.state == .quarantine || x.state == .up) then s.portTo p .fenced 13
    else s) s

end Sys2Proof.Machine
end

