-- ==== Sys2Proof/Machine/Credits.lean ====
section
/-! DEFINITION. What collectives exchange: the fields of their packets (R336), the ring geometry of their chunks (R330,
R337 to R340), slot credits (R342), and the control phases of barriers and votes (R341). -/

namespace Sys2Proof.Machine

/-! ### Packet fields (R336) -/

/-- comm of a collective packet. -/
def chunkComm (k : Packet) : Comm := BitVec.ofNat 8 (bitsOf k.arg 47 40)
/-- r of a collective packet. -/
def chunkR (k : Packet) : BitVec 2 := BitVec.ofNat 2 (bitsOf k.arg 39 38)
/-- ph of a collective packet. -/
def chunkPh (k : Packet) : Bool := bitOf k.arg 37
/-- dir of a CHUNK, REREQ or CREDIT. -/
def chunkDir (k : Packet) : Bool := bitOf k.arg 36
/-- step of a CHUNK or REREQ. -/
def chunkStep (k : Packet) : Nat := bitsOf k.arg 35 31
/-- Chunk index of a CHUNK or REREQ, or the credits a CREDIT returns. -/
def chunkIdx (k : Packet) : Nat := bitsOf k.arg 30 16
/-- sig of a CHUNK, REREQ or CTRL. -/
def chunkSig (k : Packet) : BitVec 16 := BitVec.ofNat 16 (bitsOf k.arg 15 0)
/-- Subtype of a CTRL: 1 ARRIVE, 2 VOTE, 3 ABORT. -/
def ctrlSub (k : Packet) : Nat := bitsOf k.arg 30 24
/-- Value of a CTRL. -/
def ctrlVal (k : Packet) : Nat := bitsOf k.arg 23 16

/-- The arg field of a CTRL packet. -/
def ctrlArg (c : Comm) (r : BitVec 2) (ph : Bool) (sub : Nat) (value : Nat) (sig : BitVec 16) : BitVec 48 :=
  BitVec.ofNat 48 (c.toNat * 2 ^ 40 + r.toNat * 2 ^ 38 + b2n ph * 2 ^ 37 + sub % 128 * 2 ^ 24 + value % 256 * 2 ^ 16 +
    sig.toNat)

/-- The arg field of a CHUNK, REREQ or CREDIT. -/
def chunkArg (c : Comm) (r : BitVec 2) (ph dir : Bool) (step idx : Nat) (sig : BitVec 16) : BitVec 48 :=
  BitVec.ofNat 48 (c.toNat * 2 ^ 40 + r.toNat * 2 ^ 38 + b2n ph * 2 ^ 37 + b2n dir * 2 ^ 36 + step % 32 * 2 ^ 31 +
    idx % 32768 * 2 ^ 16 + sig.toNat)

/-! ### Active collectives -/

/-- An active collective with every field but its key zero or empty. -/
def Active.blank (n : Core) (c : Comm) (seq : BitVec 16) (r : BitVec 2) (sig : BitVec 16) (op : ClOp) : Active :=
  { core := n, id := 0, comm := c, seq := seq, r := r, sig := sig, op := op, fused := false, axes := 0, red := 0
    norm := false, efmt := 0, root := 0, width := 0, count := 0, dst := 0, cap := 0, normAddr := 0, desc := 0, vote := 0
    input := [], got := [], sent := [], ctrl := [], asked := [], fed := 0, drops := 0, bad := false, shadow := false }

/-- Whether two active collectives are one: same communicator, sequence number and repeat index (R334). -/
def Active.same (a b : Active) : Bool := a.comm == b.comm && a.seq == b.seq && a.r == b.r

/-- Replace an active collective by its changed self. -/
def State.putActive (s : State) (a : Active) : State :=
  { s with coll := { s.coll with active := s.coll.active.map fun b => if a.same b then a else b } }

/-- The group axes an active collective runs on. -/
def State.collAxes (s : State) (a : Active) : List GroupAxis :=
  match s.commOn a.comm with
  | some (w, _) => selectAxes w a.axes.toNat
  | none => []

/-- A CTRL packet of an active collective (R336). -/
def State.ctrlPacket (s : State) (a : Active) (dst : Coord) (ph : Bool) (sub value : Nat) : Packet :=
  s.packet dst 3 7 0x20 (ctrlArg a.comm a.r ph sub value a.sig) a.seq 0 []

/-- The position k hops ahead of p on the + ring of g positions, or on the − ring (R330). -/
def ahead (g p : Nat) (minus : Bool) (k : Nat) : Nat := if minus then (p + g - k % g) % g else (p + k) % g

/-- The part k hops ahead of (or behind) this part on a phase axis of a collective; this part where the axis is none of
its own. -/
def State.hop (s : State) (a : Active) (ph minus : Bool) (k : Nat) : Coord :=
  match (s.collAxes a).find? fun x => x.no == b2n ph with
  | none => s.coord
  | some x => s.peerOn x (ahead x.g (s.posOn x) minus k)

/-- Hops a chunk of a step travels: 1 on a ring, the step itself in an all-to-all (R337 to R340, R346). -/
def Active.hops (a : Active) (step : Nat) : Nat := if a.op == .a2a then step else 1

/-- Where a chunk is sent. -/
def State.targetOf (s : State) (a : Active) (k : ChunkKey) : Coord := s.hop a k.ph k.dir (a.hops k.step)
/-- Where a chunk comes from. -/
def State.sourceOf (s : State) (a : Active) (k : ChunkKey) : Coord := s.hop a k.ph (!k.dir) (a.hops k.step)

/-! ### Credits (R331, R342) -/

/-- Sources of a communicator: two on an axis at least, and axis 0 counted as such where it is not enabled (R331). -/
def sourcesOf (w : Word) : Nat :=
  let n := ((commAxes w).map fun a => max 2 (a.g - 1)).sum
  if bitOf w 12 then n else n + 2

/-- Credits per source on a communicator (R331). -/
def creditsOf (w : Word) (slots : Nat) : Nat := (slots - 4) / sourcesOf w - 1

/-- The slots that hold this member's own partials and rows: those that no source has (R331). -/
def localSlots (w : Word) (slots : Nat) : Nat := slots - sourcesOf w * (creditsOf w slots + 1)

/-- The number under which a flow or a debt is kept. -/
def flowKey (x : Coord) (ph dir : Bool) : Nat := x.toNat * 4 + b2n ph * 2 + b2n dir

/-- Return the credits owed to a source on an axis and direction, if any. -/
def State.payDebt (s : State) (c : Comm) (x : Coord) (ph dir : Bool) : State :=
  let k := flowKey x ph dir
  let d := SMap.get Debt.reset (SMap.get CommSt.reset s.coll.comms c.toNat).debts k
  if d.count = 0 then s
  else
    let p := s.packet x 3 5 0x20 (chunkArg c d.r ph dir 0 d.count 0) d.seq 0 []
    (s.modComm c fun y => { y with debts := SMap.put Debt.reset y.debts k Debt.reset }).send { p with echo := d.echo }

/-- A slot is released: its credit is owed to the source, and eight are returned together. -/
def State.owe (s : State) (c : Comm) (x : Coord) (ph dir mark : Bool) (r : BitVec 2) (seq : BitVec 16) : State :=
  let k := flowKey x ph dir
  let s := s.modComm c fun y =>
    let d := SMap.get Debt.reset y.debts k
    { y with debts := SMap.put Debt.reset y.debts k { count := d.count + 1, echo := d.echo || mark, r := r, seq := seq } }
  if (SMap.get Debt.reset (SMap.get CommSt.reset s.coll.comms c.toNat).debts k).count ≥ 8 then s.payDebt c x ph dir
  else s

/-- The slot of a received chunk is released. -/
def State.oweChunk (s : State) (a : Active) (g : Got) : State :=
  s.owe a.comm (s.sourceOf a g.key) g.key.ph g.key.dir g.mark a.r a.seq

/-- The slot of a chunk packet that is dropped is released. -/
def State.owePacket (s : State) (k : Packet) : State :=
  s.owe (chunkComm k) k.src (chunkPh k) (chunkDir k) k.mark (chunkR k) k.ctx

/-! ### Control phases (R341) -/

/-- The key under which the CTRL for a position of a phase is noted. -/
def ctrlKey (ph : Bool) (q : Nat) : ChunkKey :=
  { ctrl := true, gather := false, ph := ph, dir := false, step := 0, idx := 0, peer := q }

/-- The outcome combined from this member's vote and what the phases given have brought: dirty outranks exhausted, that
repeat, that clean (R80, R341). -/
def Active.ctrlValue (a : Active) (axes : List GroupAxis) : Nat :=
  (a.ctrl.filter fun c => axes.any fun x => x.no == b2n c.1).foldl (fun v c => max v c.2.2.toNat) a.vote.toNat

/-- Note a CTRL by its sender's position; a second one from the same sender changes nothing. -/
def State.gotCtrl (s : State) (a : Active) (k : Packet) : Active :=
  match (s.collAxes a).find? fun x => x.no == b2n (chunkPh k) with
  | none => a
  | some x =>
    let q := coordAt k.src x.ax - x.base
    if a.ctrl.any fun c => c.1 == chunkPh k && c.2.1 == q then a
    else { a with ctrl := a.ctrl ++ [(chunkPh k, q, BitVec.ofNat 8 (ctrlVal k))] }

/-- Go through the phases: send this member's CTRL to every other member of the axis group, and go on once one from each
of them is held. axes: those left; done: those complete. The answer tells whether every phase is complete. -/
def State.ctrlPhases (s : State) (a : Active) (axes done : List GroupAxis) : State × Active × Bool :=
  match axes with
  | [] => (s, a, true)
  | x :: rest =>
    let ph := x.no == 1
    let peers := (List.range x.g).filter fun q => q != s.posOn x
    let new := peers.filter fun q => !a.sent.contains (ctrlKey ph q)
    let sub := if a.op == .vote then 2 else 1
    let value := if a.op == .vote then a.ctrlValue done else 0
    let s := s.sendAll (new.map fun q => s.ctrlPacket a (s.peerOn x q) ph sub value)
    let a := { a with sent := a.sent ++ new.map fun q => ctrlKey ph q }
    if peers.all fun q => a.ctrl.any fun c => c.1 == ph && c.2.1 == q then s.ctrlPhases a rest (x :: done)
    else (s, a, false)

end Sys2Proof.Machine
end

