-- ==== Sys2Proof/Machine/Rings.lean ====
section
/-! DEFINITION. Rings (R144 to R150) and the windows of a layer region (R77). -/

namespace Sys2Proof.Machine

/-! ### Rings -/

/-- Ring i of a core. -/
def CoreArch.ringOf (a : CoreArch) (i : Nat) : Ring := vgetD a.ring i (Ring.reset 0)

/-- Replace ring i of a core. -/
def CoreArch.setRing (a : CoreArch) (i : Nat) (r : Ring) : CoreArch := { a with ring := vputD a.ring i r }

/-- Slot i of a ring. -/
def Ring.slot (r : Ring) (i : Nat) : Slot := r.slots.getD i Slot.reset

/-- Replace slot i of a ring. -/
def Ring.setSlot (r : Ring) (i : Nat) (x : Slot) : Ring := { r with slots := r.slots.set i x }

/-- Scratch offset of slot i (R144). -/
def Ring.slotOff (r : Ring) (i : Nat) : Nat := (r.base.toNat + i) * 4096

/-- The slot after slot i, in ring order (R147). -/
def Ring.after (r : Ring) (i : Nat) : Nat := if i + 1 < r.nslots.toNat then i + 1 else 0

/-- Whether the tail slot can be claimed (R147). -/
def Ring.hasRoom (r : Ring) : Bool := (r.slot r.tail).st == .empty

/-- The FULL and HELD slots from the head, in order (R147). -/
def Ring.heldSlots (r : Ring) : List Slot :=
  ((List.range r.nslots.toNat).map fun i => r.slot ((r.head + i) % r.nslots.toNat)).takeWhile
    fun x => x.st == .full || x.st == .held

/-- The slots that hold bytes for the consumer, from the head, in order; of a failed ring those that were FULL when it
failed (R147, R150). -/
def Ring.fullSlots (r : Ring) : List Slot := if r.failed.isSome then r.heldSlots.take r.good else r.heldSlots

/-- Mark the ring failed with a status: the slots that are FULL stay readable. A ring that has failed keeps its first
status (R150). -/
def Ring.fail (r : Ring) (st : Status) : Ring :=
  if r.failed.isSome then r else { r with failed := some st, good := r.heldSlots.length }

/-- Bytes the consumer can read (R147). -/
def Ring.avail (r : Ring) : Nat := ((r.fullSlots.map Slot.cnt).sum) - r.rpos

/-- Bytes up to and with the first end-marked slot; none when no slot in reach is end-marked (R149). -/
def Ring.toEnd (r : Ring) : Option Nat :=
  let xs := r.fullSlots
  if xs.any Slot.eos then some (((xs.takeWhile fun x => !x.eos).map Slot.cnt).sum +
    (match xs.find? Slot.eos with
      | some x => x.cnt
      | none => 0) - r.rpos)
  else none

/-- A ring that is empty and has no active producer or consumer (R145). -/
def Ring.idle (r : Ring) : Bool := r.prod.isNone && r.cons.isNone && r.slots.all fun x => x.st == .empty

/-- Fill the tail slot with bytes and hand it to the consumer; the answer tells whether a poisoned word was written in
part (R146, R147, R518). -/
def State.ringPut (s : State) (n : Core) (i : Nat) (owner : Nat) (bs : List Byte) (eos : Bool) : State × Bool :=
  let r := (s.core n).arch.ringOf i
  let (s, bad) := s.writeScratch n (r.slotOff r.tail) bs
  (s.modArch n fun a =>
    let r := a.ringOf i
    let r := r.setSlot r.tail { st := .full, cnt := bs.length, eos := eos, owner := owner }
    a.setRing i { r with tail := r.after r.tail }, bad)

/-- Mark the tail slot CLAIMED by its producer (R146). -/
def Ring.claim (r : Ring) : Ring :=
  if r.hasRoom then r.setSlot r.tail { (r.slot r.tail) with st := .claimed } else r

/-- The bytes of m at an offset of the core's scratch that lie before the first poisoned word (R518). -/
def CoreArch.cleanRun (a : CoreArch) (off m : Nat) : Nat :=
  ((List.range m).takeWhile fun j => !a.scratchPoison.contains ((off + j) / 16)).length

/-- The ring after m bytes of its head slot are read: HELD, or EMPTY after its last byte (R146). -/
def Ring.advance (r : Ring) (m : Nat) : Ring :=
  let x := r.slot r.head
  if r.rpos + m ≥ x.cnt then { (r.setSlot r.head Slot.reset) with head := r.after r.head, rpos := 0, good := r.good - 1 }
  else { (r.setSlot r.head { x with st := .held }) with rpos := r.rpos + m }

/-- Take up to k bytes from the ring's head, slot by slot, with fuel slots at most: a slot whose last byte is read
becomes EMPTY, and nothing is taken from a poisoned word on (R123, R146, R147, R518). The answer tells whether a poisoned
word was met. -/
def State.ringTake (s : State) (n : Core) (i : Nat) (k : Nat) (fuel : Nat) : State × List Byte × Bool :=
  match fuel with
  | 0 => (s, [], false)
  | f + 1 =>
    let r := (s.core n).arch.ringOf i
    let x := r.slot r.head
    if k = 0 || r.fullSlots.isEmpty then (s, [], false)
    else
      let at_ := r.slotOff r.head + r.rpos
      let want := min k (x.cnt - r.rpos)
      let m := (s.core n).arch.cleanRun at_ want
      let bs := (s.core n).arch.scratch.readN at_ m
      let s := s.modArch n fun a => a.setRing i (r.advance m)
      if m < want then (s, bs, true)
      else
        let (s, rest, bad) := s.ringTake n i (k - m) f
        (s, bs ++ rest, bad)

/-- Discard up to k bytes from the ring's head, poisoned ones too, slot by slot, with fuel slots at most (R146, R164). -/
def State.ringDrop (s : State) (n : Core) (i : Nat) (k : Nat) (fuel : Nat) : State :=
  match fuel with
  | 0 => s
  | f + 1 =>
    let r := (s.core n).arch.ringOf i
    let x := r.slot r.head
    if k = 0 || r.fullSlots.isEmpty then s
    else
      let m := min k (x.cnt - r.rpos)
      (s.modArch n fun a => a.setRing i (r.advance m)).ringDrop n i (k - m) f

/-- The words of scratch that the next k bytes of a ring lie in, in order, where its slots hold that many (R144, R147). -/
def Ring.nextWords (r : Ring) (k : Nat) : List Nat :=
  let bytes := (List.range r.fullSlots.length).flatMap fun j =>
    let i := (r.head + j) % r.nslots.toNat
    let lo := if j = 0 then r.rpos else 0
    (List.range ((r.slot i).cnt - lo)).map fun b => r.slotOff i + lo + b
  ((bytes.take k).map (· / 16)).eraseDups

/-- What the code finds in words that an instruction reads from a ring: each error acts once, a corrected one being
counted, and an uncorrectable one also poisoning its word (R518). The answer holds the errors still to come. -/
def State.ringErrors (s : State) (n : Core) (i k : Nat) (errs : List (Nat × Ecc)) : State × List (Nat × Ecc) :=
  if errs.isEmpty then (s, [])
  else
    let ws := ((s.core n).arch.ringOf i).nextWords k
    let hit := errs.filter fun e => ws.contains e.1
    (hit.foldl (fun s e => (s.readScratch n (16 * e.1) 1 e.2).1) s, errs.filter fun e => !ws.contains e.1)

/-- Become the active producer of ring i (R148). -/
def CoreArch.produce (a : CoreArch) (i id : Nat) : CoreArch := a.setRing i { (a.ringOf i) with prod := some id }

/-- Become the active consumer of ring i (R148). -/
def CoreArch.consume (a : CoreArch) (i id : Nat) : CoreArch := a.setRing i { (a.ringOf i) with cons := some id }

/-- The failure a consumer meets that needs bytes, one at least, where fewer are left of those FULL at the failure, whatever
a later producer brings (R150). -/
def Ring.broken (r : Ring) (need : Nat := 1) : Option Status := if r.avail < need then r.failed else none

/-! ### Region windows -/

/-- Whether the bytes lo to hi lie in one range of a list (R77). -/
def inRanges (rs : List (Word × Word)) (lo hi : Nat) : Bool :=
  rs.any fun r => r.1.toNat ≤ lo && hi < r.1.toNat + r.2.toNat

/-- Whether n bytes at a lie in core k's own scratch, which is private to its region (R77). -/
def ownScratch (k : Core) (a n : Nat) : Bool := scratchAddr k 0 ≤ a && a + n ≤ scratchAddr k 0 + scratchSize

/-- Whether n bytes at a lie in core k's open read (or write) window or in its own scratch; outside a region every
address does (R75, R77). -/
def CoreSt.inWindow (c : CoreSt) (k : Core) (write : Bool) (a n : Nat) : Bool :=
  match c.region with
  | none => true
  | some g => n == 0 || ownScratch k a n || inRanges (if write then g.wr else g.rd) a (a + n - 1)

end Sys2Proof.Machine
end

