-- ==== Sys2Proof/Machine/Window.lean ====
section
/-! DEFINITION. What the matrix engine and the Shank path share: format pairs and ceilings (R84, R114), column sums in
the window (R94 to R97, R110), heel accumulation (R98, R99, R101), and the Awl's numerics log (R172, R173). -/

namespace Sys2Proof.Machine

/-! ### The numerics log -/

/-- Identifier of the open region, 0xFFFF outside one: the ctx of every draw (R181). -/
def CoreSt.ctx (c : CoreSt) : BitVec 16 :=
  match c.region with
  | some g => g.id
  | none => 0xFFFF

/-- Write a numerics log record; the attempt's count saturates (R173, R382). -/
def State.logNum (s : State) (r : NumRec) : State :=
  { s with awl := { s.awl with numLog := s.awl.numLog ++ [r], nlog := satAdd s.awl.nlog 1 } }

/-- A record of an instruction of core n (R173). -/
def State.numRec (s : State) (n : Core) (e : QEntry) (kind row col stage : Nat) (what : Int) : NumRec :=
  { core := n, id := e.id, region := (s.core n).ctx, r := (s.core n).rep, pc := e.pc, kind := kind, row := row
    col := col, stage := stage, what := what, more := 0 }

/-- Overflows, k of them, of which the first is at the given place: the first of each instruction and repeat index is
logged and the others are counted in its record, and inside a region a repeat is requested (R79, R172, R173). -/
def State.overflowAt (s : State) (n : Core) (e : QEntry) (kind row col stage : Nat) (what : Int) (k : Nat) : State :=
  let r := s.numRec n e kind row col stage what
  let mine := fun (q : NumRec) => q.core == n && q.id == e.id && q.r == r.r && q.kind ≤ 3
  let s := if s.awl.numLog.any mine then
      { s with awl := { s.awl with numLog := s.awl.numLog.map fun q => if mine q then { q with more := q.more + k } else q } }
    else s.logNum { r with more := k - 1 }
  s.modCore n fun c =>
    match c.region with
    | none => c
    | some g => { c with region := some { g with overflow := true } }

/-- Whether the operation is a pass of the matrix engine. -/
def EngOp.isPass (o : EngOp) : Bool :=
  match o with
  | .mxPass => true | .mxAg => true | .mxRs => true | _ => false

/-- NaN is produced: the region is dirty. The Awl logs each NaN of a pass with its row and column, and receives the origin
of a region's first of any other instruction (R79, R112, R138). -/
def State.nanAt (s : State) (n : Core) (e : QEntry) (row col stage : Nat) : State :=
  let g := (s.core n).region
  let first := match g with
    | some g => !g.nan
    | none => false
  let s := if e.op.isPass || first then s.logNum (s.numRec n e 6 row col stage 0) else s
  match g with
  | none => s
  | some g => s.modCore n fun c => { c with region := some { g with nan := true } }

/-- A residue mismatch is logged and counted as intrinsic to the core (R109, R122, R142). -/
def State.mismatch (s : State) (n : Core) (e : QEntry) (row col stage : Nat) : State :=
  (s.logNum (s.numRec n e 4 row col stage 0)).health 0x06 intrinsic n.val

/-! ### Pairs and ceilings -/

/-- Whether a format code is V8P or V8R (R40). -/
def isV8 (c : Nat) : Bool := c == 1 || c == 2

/-- Lanes and window width of a moving, stationary and accumulator code; none when they form no row of R84. -/
def pairOf (m st acc : Nat) : Option (Nat × Nat) :=
  if m == 0 && st == 0 && acc == 5 then some (1, 64)
  else if isV8 m && isV8 st && acc == 5 then some (2, 48)
  else if isV8 m && isV8 st && acc == 4 then some (4, 48)
  else if m == 3 && st == 3 && acc == 5 then some (4, 48)
  else if m == 7 && st == 7 && acc == 5 then some (2, 48)
  else none

/-- The full-range ceiling of a pair (R84); both tells whether both INT8 operands are unsigned. -/
def fullCeiling (m st : Nat) (both : Bool) (pexp : Int) : Int :=
  if m == 0 then 256
  else if m == 3 then 260
  else if m == 7 then (if both then 16 else 15) + pexp
  else if m == 1 && st == 1 then 18
  else if m == 2 && st == 2 then 32
  else 25

/-- A signed field of k bits. -/
def signedField (k : Nat) (x : Nat) : Int := if x < 2 ^ (k - 1) then (x : Int) else (x : Int) - (2 ^ k : Nat)

/-- The ceiling a control word selects: ceil_sel in bit 30, ceil in [29:20], pexp in [36:31] (R208, R211). -/
def ceilingOf (w : Word) (m st : Nat) (both : Bool) : Int :=
  let pexp := signedField 6 (bitsOf w 36 31)
  if bitOf w 30 then signedField 10 (bitsOf w 29 20) else fullCeiling m st both pexp

/-- The number of an operand element. A V4 element is held as element + 16 × scale byte; an INT8 byte is read unsigned
where the operand says so (R36, R89, R105). -/
def elemNum (f : Nat) (uns : Bool) (x : Nat) : Num :=
  if f == 3 then v4Value (x / 16) (x % 16)
  else if f == 7 && uns then .ofInt (x % 256 : Nat)
  else
    match Fmt.ofCode f with
    | some g => decodeNum g x
    | none => .nan

/-- One product, with neg and pexp applied exactly (R94). -/
def Dot.product (d : Dot) (a b : Nat) : Num :=
  let p := ((elemNum d.mf d.um a).mul (elemNum d.sf d.us b)).scale d.pexp
  if d.neg then p.neg else p

/-! ### Column sums -/

/-- What a finite product adds to a column: its integer in the window, its residue modulo 7, and whether it exceeds the
ceiling (R94, R96, R107). -/
structure Term where
  z : Int
  res : Int
  exc : Bool

/-- The term of a product (R94, R96, R107): its residue comes from its significands, or from the rounded integer of one
that is rounded or replaced. -/
def windowTerm (win : Nat) (c : Int) (p : Num) : Term :=
  match p with
  | .fin n m e =>
    let sg := fun (q : Nat) => if n then -(q : Int) else (q : Int)
    let lsb := c + 9 - win
    if m != 0 && magLe 1 c m e then
      let z := sg (2 ^ (win - 9) - 1)
      { z := z, res := z % 7, exc := true }
    else
      let z := sg (roundMul .rne m e lsb).1
      { z := z, res := if lsb ≤ e then sg (m % 7 * 2 ^ ((e - lsb).toNat % 3)) % 7 else z % 7, exc := false }
  | _ => { z := 0, res := 0, exc := false }

/-- A column sum with its residue check: miss tells that Z modulo 7 is not the sum of the residues. -/
structure Checked where
  sum : ColSum
  miss : Bool

/-- A column sum, off by err units of the window, and its residue check, which leaves out sums that are NaN or infinite
(R94 to R97, R107). -/
def windowSum (win : Nat) (c : Int) (err : Int) (ps : List Num) : Checked :=
  let ts := ps.map (windowTerm win c)
  let up := ps.any fun p => p == .inf false
  let dn := ps.any fun p => p == .inf true
  let z := (ts.map Term.z).sum + err
  let v := if ps.any Num.isNan || (up && dn) then Num.nan
    else if up then .inf false
    else if dn then .inf true
    else .fin (decide (z < 0)) z.natAbs (c + 9 - win)
  { sum := { v := v, exc := (ts.filter Term.exc).length, j := 0 }
    miss := v.isFin && z % 7 != (ts.map Term.res).sum % 7 }

/-- A column sum with careful mode's recompute: the first ceiling up to c + 4 without an exceedance supplies it. The sum
as first formed, or formed again after a mismatch, is off by err (R96, R110, R175). -/
def Dot.sum (d : Dot) (err : Int) (ps : List Num) : Checked :=
  let r := windowSum d.win d.ceil err ps
  if r.miss || !d.careful || r.sum.exc == 0 then r
  else
    let at_ := fun (j : Nat) => { (windowSum d.win (d.ceil + j) 0 ps).sum with j := j }
    match [1, 2, 3, 4].find? fun (j : Nat) => (at_ j).exc == 0 with
    | some j => { sum := at_ j, miss := false }
    | none => { sum := at_ 4, miss := false }

/-! ### The heel -/

/-- Bytes of an accumulator (R98). -/
def accBytes (af : Nat) : Nat := if af == 4 then 2 else 4

/-- The accumulator format of a code. -/
def accFmt (af : Nat) : Fmt := if af == 4 then .a16 else .a32

/-- Heel row stride in elements (R98). -/
def heelStride (n : Nat) : Nat := 256 * ((n + 255) / 256)

/-- Byte offset of element o of heel row r for a stride and element size, rows taken modulo H. R98 writes H as a quotient;
where S × b does not divide 524,288 (S = 768), DESIGN CHOICE: H is its whole part (log 115). -/
def heelOff (stride b r o : Nat) : Nat := (r % (524288 / (stride * b)) * stride + o) * b

/-- Byte offset of the heel element that row i and column o of a product add into (R98). -/
def Dot.off (d : Dot) (i o : Nat) : Nat := heelOff (heelStride d.n) (accBytes d.af) (d.hrow + i) o

/-- Whether an element of the heel is poisoned (R101). -/
def CoreArch.heelBad (a : CoreArch) (off b : Nat) : Bool := (List.range b).any fun j => a.heelPoison.contains (off + j)

/-- Mark an element of the heel poisoned (R101). -/
def CoreArch.poisonHeel (a : CoreArch) (off b : Nat) : CoreArch :=
  { a with heelPoison := NatSet.addAll a.heelPoison ((List.range b).map (off + ·)) }

/-- Write an element of the heel whole, which clears its poison (R101, R134). -/
def CoreArch.setHeel (a : CoreArch) (off b x : Nat) : CoreArch :=
  { a with heel := Memory.writeN a.heel off (leBytes b x)
           heelPoison := a.heelPoison.filter fun p => !(off ≤ p && p < off + b) }

/-- The index of a heel add's draw: the unreduced row and the column (R181). -/
def Dot.index (d : Dot) (i o : Nat) : Nat := (d.hrow + i) * 1024 + o

/-- The draw of a core's operation of source src and position sub (R181, R182). -/
def CoreSt.drawOf (c : CoreSt) (tid : BitVec 16) (src sub index : Nat) : BitVec 16 :=
  draw c.reg.srkey c.reg.srepoch c.ctx tid src sub index

/-- The heel adds so far: the state, whether an overflow was met and whether an uncorrectable heel element was. -/
structure RowAcc where
  s : State
  ovf : Bool
  bad : Bool

/-- One heel add with its log: the exact sum of the element (or +0 with start) and the column sum, rounded once under
SR. An uncorrectable element is poisoned instead, and a corrected one is counted (R39, R99, R101, R172, R175). hw tells
which reads meet such errors. DESIGN CHOICE: the record of an exceedance left at c + 4 holds the pass's own ceiling c
(R110, log 116). -/
def Dot.add (d : Dot) (n : Core) (e : QEntry) (i o : Nat) (x : ColSum) (hw : HwFault) (r : RowAcc) : RowAcc :=
  let b := accBytes d.af
  let f := accFmt d.af
  let off := d.off i o
  let s := if x.j != 0 then r.s.logNum (r.s.numRec n e 5 i o 0 x.j) else r.s
  let s := if x.exc != 0 then s.overflowAt n e 0 i o 0 d.ceil x.exc else s
  let s := if !d.start && hw.heelFixed.contains (i, o) then s.health 0x06 intrinsic n.val else s
  let c := s.core n
  if !d.start && (hw.heel.contains (i, o) || c.arch.heelBad off b) then
    { s := s.modArch n fun a => a.poisonHeel off b, ovf := r.ovf || x.exc != 0, bad := true }
  else
    let old := if d.start then Num.zero else decodeNum f (Memory.nat c.arch.heel off b)
    let (y, fl) := heelRound f (c.drawOf d.tid 1 0 (d.index i o)) (old.add x.v)
    let big := x.v.isFin && old.isFin && !(decodeNum f y).isFin
    let s := s.modArch n fun a => a.setHeel off b y
    let s := if big then s.overflowAt n e 1 i o 0 d.af 1 else s
    let s := if Flags.has fl flagNv then s.nanAt n e i o 0 else s
    { s := s, ovf := r.ovf || x.exc != 0 || big, bad := r.bad }

end Sys2Proof.Machine
end

