-- ==== Sys2Proof/Machine/Flight.lean ====
section
/-! DEFINITION. Started engine instructions and what is in their pipelines: the rows of a pass or an MV.DOT whose heel adds
are still to be made (R91, R99 to R101, R118), their finishing (R100, R103, R219), the late writes of a chain (R135), the
bytes made for output rings (R146, R147), and how all of it ends when a core's queues are aborted (R67). -/

namespace Sys2Proof.Machine

/-! ### Started instructions -/

/-- Change the started instruction id of queue q. -/
def CoreSt.modRun (c : CoreSt) (q : QueueId) (id : Nat) (f : RunEntry → RunEntry) : CoreSt :=
  let k := c.queue q
  c.setQueue q { k with running := k.running.map fun x => if x.e.id == id then f x else x }

/-- Change the progress of the started instruction id of queue q on core n. -/
def State.modRun (s : State) (n : Core) (q : QueueId) (id : Nat) (f : Progress → Progress) : State :=
  s.modCore n fun c => c.modRun q id fun x => { x with g := f x.g }

/-- The started instruction id of queue q has ended with a status and waits for its completion. -/
def State.endRun (s : State) (n : Core) (q : QueueId) (id : Nat) (st : Status) : State :=
  s.modCore n fun c => c.modRun q id fun x => { x with status := some st }

/-- Put an instruction among the started ones. -/
def State.addRun (s : State) (n : Core) (q : QueueId) (e : QEntry) (hw : HwFault) (g : Progress) : State :=
  s.modCore n fun c =>
    let k := c.queue q
    c.setQueue q { k with running := k.running ++ [{ e := e, hw := hw, g := g, status := none }] }

/-- The final status of an instruction that ended with st: a poisoned word written in part turns OK into
ECC_UNCORRECTABLE, and an overflow outside a region OK into OVERFLOW_REPEAT_EXHAUSTED (R81, R518). -/
def CoreSt.endStatus (c : CoreSt) (g : Progress) (st : Status) : Status :=
  let st := if st = .ok && g.soft then .eccUncorrectable else st
  if st = .ok && g.ovf && c.region.isNone then .overflowRepeatExhausted else st

/-- An overflow outside a region sets repeat_exhausted, whatever the instruction's status (R81). -/
def CoreSt.overflowFlag (c : CoreSt) (ovf : Bool) : CoreSt := if ovf && c.region.isNone then c.setFlags 0x02 else c

/-! ### Bytes for output rings -/

/-- Whether a producer can make more bytes: its slot is not full, and it holds a slot or can claim one (R92, R147). -/
def CoreSt.outReady (c : CoreSt) (ring : Nat) (out : List Byte) : Bool :=
  out.length < 4096 && (!out.isEmpty || (c.arch.ringOf ring).hasRoom)

/-- Fill a slot with a producer's bytes where 4 KiB are made, or at its end; none where there is nothing to fill or no
slot. The answer holds the bytes left and whether a poisoned word was written in part (R146, R147, R518). -/
def State.flush (s : State) (n : Core) (ring id : Nat) (out : List Byte) (final : Bool) :
    Option (State × List Byte × Bool) :=
  let r := (s.core n).arch.ringOf ring
  let st := (r.slot r.tail).st
  if (out.length ≥ 4096 || (final && !out.isEmpty)) && (st == .empty || st == .claimed) then
    let (s, bad) := s.ringPut n ring id (out.take 4096) false
    some (s, out.drop 4096, bad)
  else none

/-- A producer that has made bytes holds the tail slot (R146). -/
def State.claimTail (s : State) (n : Core) (ring : Nat) (out : List Byte) : State :=
  if out.isEmpty then s else s.modArch n fun a => a.setRing ring (a.ringOf ring).claim

/-- Fill slots with all of a producer's bytes while slots are EMPTY. -/
def State.flushAll (s : State) (n : Core) (ring id : Nat) (out : List Byte) (fuel : Nat) : State × List Byte × Bool :=
  match fuel with
  | 0 => (s, out, false)
  | k + 1 =>
    match s.flush n ring id out true with
    | none => (s, out, false)
    | some (s, out, bad) =>
      let (s, out, bad2) := s.flushAll n ring id out k
      (s, out, bad || bad2)

/-! ### Rows of a pass -/

/-- Whether a pass emits: final and emit (R100). -/
def passEmits (w : BitVec 48) (b : Word) : Bool := bitOf w 42 && bitOf b 23

/-- Moving rows of a pass: 0 to the end of its stream (R89). -/
def passRows (e : QEntry) : Nat := bitsOf e.a 62 47

/-- Whether no further row of a pass enters: it has failed, has its rows, or its stream and what it held of it have ended
(R89, R101, R149). -/
def Progress.noMore (g : Progress) (rows : Nat) : Bool :=
  g.fail.isSome || (rows != 0 && g.row ≥ rows) || (rows == 0 && g.stop && g.rest.isEmpty)

/-- Whether the newest row in the grid has all its column sums and no element waits for recompute (R109). -/
def Progress.summed (g : Progress) : Bool :=
  g.recomp.isEmpty && (match g.dot, g.flight.getLast? with
    | some d, some x => x.2.length ≥ d.n
    | _, _ => true)

/-- Whether an instruction of the MX queue has ended, or is a pass whose last row has entered (R88, R90). -/
def RunEntry.entered (x : RunEntry) : Bool :=
  x.status.isSome || (x.e.op.isPass && x.g.noMore (passRows x.e) && x.g.summed)

/-- The encodings of the elements of heel row i of a product (R98). -/
def Dot.readRow (d : Dot) (a : CoreArch) (i : Nat) : List Nat :=
  (List.range d.n).map fun o => Memory.nat a.heel (d.off i o) (accBytes d.af)

/-- Make the next k heel adds of the oldest row in flight, in column order, those of withheld elements left out. A pass goes
on past an uncorrectable element and then enters and emits nothing more; an MV.DOT makes no further add (R91, R101, R109,
R118, R123). -/
def State.addCols (s : State) (n : Core) (q : QueueId) (x : RunEntry) (k : Nat) : State :=
  match x.g.dot, x.g.flight with
  | some d, (i, sums) :: _ =>
    let todo := (sums.zipIdx.drop x.g.adds).take k
    let stops := !x.e.op.isPass
    let r := todo.foldl (fun (r : RowAcc) y =>
      match y.1 with
      | some v => if stops && r.bad then r else d.add n x.e i y.2 v x.hw r
      | none => r) { s := s, ovf := false, bad := false }
    r.s.modRun n q x.e.id fun g =>
      let g := { g with adds := g.adds + todo.length, ovf := g.ovf || r.ovf }
      if !r.bad then g
      else if stops then { g with fail := some .eccUncorrectable, flight := [], adds := 0 }
      else { g with fail := some .eccUncorrectable, mute := true }
  | _, _ => s

/-- The row statistics of a finished row (R103): ys are its elements in order, lanes the pair's lanes. -/
def CoreArch.statRow (a : CoreArch) (af lanes mode row : Nat) (ys : List Nat) : CoreArch :=
  let xs := ys.map fun y => exactF32 (decodeNum (accFmt af) y)
  let m0 : BitVec 32 := if mode = 1 then 0xFF800000 else SMap.get 0 a.statMax row
  let t0 : BitVec 32 := if mode = 1 then 0 else SMap.get 0 a.statSum row
  let lane := fun (j : Nat) => ((xs.drop (256 * j)).take 256).foldl addF (0 : BitVec 32)
  { a with statMax := SMap.put 0 a.statMax row (xs.foldl maxF m0)
           statSum := SMap.put 0 a.statSum row (((List.range lanes).map lane).foldl addF t0) }

/-- Convert a finished row for its emit ring or its reduce-scatter, with its log: the bytes, and whether a conversion
overflowed (R100, R172, R181, R219). -/
def Dot.emitRow (d : Dot) (n : Core) (e : QEntry) (i : Nat) (ef rnd : Nat) (ys : List Nat) (s : State) :
    State × List Byte × Bool :=
  match Fmt.ofCode ef with
  | none => (s, [], false)
  | some f =>
    ys.zipIdx.foldl (fun (acc : State × List Byte × Bool) p =>
      let (s, bs, ovf) := acc
      let u := (s.core n).drawOf d.tid 1 1 (d.index i p.2)
      let (y, fl) := roundTo f (Round.ofCode rnd u) (decodeNum (accFmt d.af) p.1)
      let big := Flags.has fl flagOf
      let s := if big then s.overflowAt n e 2 i p.2 0 ef 1 else s
      let s := if Flags.has fl flagNv then s.nanAt n e i p.2 0 else s
      (s, bs ++ leBytes (f.bits / 8) y, ovf || big)) (s, [], false)

/-- The active collective of a fused instruction of core n. -/
def State.fusedColl (s : State) (n : Core) (id : Nat) : Option Active :=
  s.coll.active.find? fun a => a.core == n && a.id == id && a.fused

/-- Hand bytes of finished rows to the reduce-scatter of an MX.RS; one that has ended takes nothing (R111, R219). -/
def State.handOver (s : State) (n : Core) (id : Nat) (bs : List Byte) : State :=
  { s with coll := { s.coll with active := s.coll.active.map fun a =>
      if a.core == n && a.id == id && a.fused then { a with input := a.input ++ bs } else a } }

/-- The oldest row in flight, its adds made, is finished from the heel: statistics, then its emit ring or its
reduce-scatter. A row with a poisoned or withheld element, and every row after a poisoned one, is not emitted (R100, R101,
R103, R219). -/
def State.finishRow (s : State) (n : Core) (q : QueueId) (x : RunEntry) : State :=
  match x.g.dot, x.g.flight with
  | some d, (i, sums) :: rest =>
    let e := x.e
    let pop := fun (g : Progress) => { g with flight := rest, adds := 0 }
    let a := (s.core n).arch
    let whole := sums.all Option.isSome && (List.range d.n).all fun o => !a.heelBad (d.off i o) (accBytes d.af)
    if !(e.op.isPass && whole) then s.modRun n q e.id pop
    else
      let ys := d.readRow a i
      let lanes := match pairOf d.mf d.sf d.af with
        | some (l, _) => l
        | none => 1
      let mode := bitsOf e.a 17 16
      let s := if bitOf e.w 42 && mode != 0 then
          s.modArch n fun a => a.statRow d.af lanes mode ((bitsOf e.a 15 6 + i) % 1024) ys
        else s
      if x.g.mute then s.modRun n q e.id pop
      else if e.op == .mxRs then
        match s.fusedColl n e.id with
        | none => s.modRun n q e.id pop
        | some a =>
          let (s, bs, ovf) := d.emitRow n e i a.efmt.toNat (bitsOf e.b 14 13) ys s
          (s.handOver n e.id bs).modRun n q e.id fun g => { pop g with ovf := g.ovf || ovf }
      else if passEmits e.w e.b then
        let (s, bs, ovf) := d.emitRow n e i (bitsOf e.b 18 15) (bitsOf e.b 14 13) ys s
        (s.claimTail n (bitsOf e.b 22 19) (x.g.out ++ bs)).modRun n q e.id fun g =>
          { pop g with out := g.out ++ bs, ovf := g.ovf || ovf }
      else s.modRun n q e.id pop
  | _, _ => s

/-! ### Late writes of a chain -/

/-- Make one late write (R135). -/
def CoreArch.lateWrite (a : CoreArch) (w : LateWrite) : CoreArch :=
  match w with
  | .heel off b x => a.setHeel off b x
  | .lane k x => { a with v := SMap.put 0 a.v k x }

/-- The program-visible state with the late writes that are seen by beat q (R135). -/
def CoreArch.withLate (a : CoreArch) (late : List (Nat × List LateWrite)) (q : Nat) : CoreArch :=
  (late.filter fun x => x.1 ≤ q).foldl (fun a x => x.2.foldl CoreArch.lateWrite a) a

/-- The late writes that beat q sees are made for good. -/
def State.commitLate (s : State) (n : Core) (x : RunEntry) (q : Nat) : State :=
  if x.g.late.isEmpty then s
  else
    (s.modArch n fun a => a.withLate x.g.late q).modRun n .vx x.e.id fun g =>
      { g with late := g.late.filter fun y => q < y.1 }

/-! ### The end of what is in flight -/

/-- The output rings of a started instruction: that of its rows or beats, and that of a chain's reduction (R100, R104,
R129). -/
def RunEntry.outRings (x : RunEntry) : Nat × Nat :=
  match x.e.op with
  | .mxRstat => (bitsOf x.e.w 47 44, 0)
  | .vxChain => (natAt x.g.desc 8 8 / 2 ^ 52 % 1024, natAt x.g.desc 8 8 / 2 ^ 36 % 32)
  | _ => (bitsOf x.e.b 22 19, 0)

/-- Whether a started instruction has taken all it needs, so that what is in flight is all that is left of it. -/
def RunEntry.taken (x : RunEntry) : Bool :=
  match x.e.op with
  | .mxLoad => false
  | .mxRstat => x.g.row ≥ (if bitsOf x.e.w 33 24 = 0 then 1024 else bitsOf x.e.w 33 24)
  | .mvDot => x.g.stop
  | .vxChain =>
    let rows := natAt x.g.desc 0 8 / 2 ^ 48
    x.g.fail.isSome || (rows != 0 && x.g.row ≥ rows) || (rows == 0 && x.g.stop && x.g.beat == 0)
  | _ => x.g.noMore (passRows x.e)

/-- The started instruction id of queue q. -/
def CoreSt.runOf (c : CoreSt) (q : QueueId) (id : Nat) : Option RunEntry :=
  (c.queue q).running.find? fun x => x.e.id == id

/-- Every row in flight of a started instruction is added and finished. -/
def State.drainRows (s : State) (n : Core) (q : QueueId) (id fuel : Nat) : State :=
  match fuel with
  | 0 => s
  | k + 1 =>
    match (s.core n).runOf q id with
    | none => s
    | some x =>
      if x.g.flight.isEmpty then s
      else
        let s := s.addCols n q x 1024
        match (s.core n).runOf q id with
        | none => s
        | some x => (s.finishRow n q x).drainRows n q id k

/-- What a started instruction has in flight completes into the heel, the registers and the slots that are EMPTY, and the
rest is discarded. One that had taken all it needs and loses nothing has then ended (R67). -/
def State.drainRun (s : State) (n : Core) (q : QueueId) (id : Nat) : State :=
  let s := s.drainRows n q id 600
  match (s.core n).runOf q id with
  | none => s
  | some x =>
    if x.status.isSome then s
    else
      let s := s.commitLate n x (x.g.late.foldl (fun m y => max m y.1) 0)
      let (s, o0, b0) := s.flushAll n x.outRings.1 id x.g.out 17
      let (s, o1, b1) := s.flushAll n x.outRings.2 id x.g.out1 17
      let s := s.modRun n q id fun g => { g with out := [], out1 := [], soft := g.soft || b0 || b1 }
      if x.taken && o0.isEmpty && o1.isEmpty then s.endRun n q id (x.g.fail.getD .ok) else s

/-- The engines of a core end what they have in flight (R67). -/
def State.drainCore (s : State) (n : Core) : State :=
  let c := s.core n
  let ids := fun (q : QueueId) => ((c.queue q).running.filter fun x => x.status.isNone).map fun x => (q, x.e.id)
  (ids .mx ++ ids .mv ++ ids .vx).foldl (fun s x => s.drainRun n x.1 x.2) s

end Sys2Proof.Machine
end

