-- ==== Sys2Proof/Machine/Complete.lean ====
section
/-! DEFINITION. How instructions complete and how a core's work ends: signals (R61), completion statuses (R73, R76,
R79), the failure of a collective (R348, R349), the abort of a core's queues (R67) and the core fault (R75). -/

namespace Sys2Proof.Machine

/-! ### The engine tail (R192) -/

/-- Whether the instruction signals. -/
def tailSen (w : BitVec 48) : Bool := bitOf w 20
/-- The signal semaphore. -/
def tailSsem (w : BitVec 48) : Nat := bitsOf w 19 14
/-- The wait count. -/
def tailWcnt (w : BitVec 48) : Nat := bitsOf w 13 10
/-- The wait semaphore. -/
def tailWsem (w : BitVec 48) : Nat := bitsOf w 9 4
/-- The predicate inversion. -/
def tailPinv (w : BitVec 48) : Bool := bitOf w 3
/-- The predicate register. -/
def tailPidx (w : BitVec 48) : Nat := bitsOf w 2 0

/-! ### Signals and completions -/

/-- A signal: the count rises by 1 and the first non-OK status is kept; the answer tells whether the count would pass
65,535 (R61). -/
def CoreSt.signal (c : CoreSt) (i : Nat) (st : Status) : CoreSt × Bool :=
  let x := c.arch.semOf i
  let y : Sem := { count := if x.count = BitVec.allOnes 16 then x.count else x.count + 1
                   status := if x.status = .ok then st else x.status }
  ({ c with arch := c.arch.setSem i y }, x.count == BitVec.allOnes 16)

/-- Note a completion status: its health and step flag, and inside a region the first status that makes it dirty (R73,
R76, R79, R80). -/
def CoreSt.note (c : CoreSt) (st : Status) : CoreSt :=
  let c := c.setFlags st.flag
  match c.region with
  | none => c
  | some g =>
    if st = .ok || st = .capacityDrop || g.first.isSome then c else { c with region := some { g with first := some st } }

/-- Whether the operation is a near-memory command (R205). -/
def EngOp.isNm (o : EngOp) : Bool :=
  match o with
  | .nm _ => true | _ => false

/-- Whether the operation is a side of a fused instruction (R217). -/
def EngOp.isFused (o : EngOp) : Bool :=
  match o with
  | .mxAg => true | .mxRs => true | .agSide => true | .rsSide => true | _ => false

/-- An engine instruction completes on its core: flags, region, update_fail, signal; the answer tells whether the
signal overflowed (R61, R73, R79, R357). -/
def CoreSt.complete (c : CoreSt) (e : QEntry) (st : Status) : CoreSt × Bool :=
  let c := c.note st
  let c := if e.op.isNm && st ≠ .ok then { c with updates := c.updates ||| 2 } else c
  if tailSen e.w then c.signal (tailSsem e.w) st else (c, false)

/-! ### The end of a collective -/

/-- The instruction id gives up a ring it produces into, which fails with its status (R148, R150). -/
def Ring.unproduce (r : Ring) (id : Nat) (st : Status) : Ring :=
  if r.prod == some id then { (if st = .ok then r else r.fail st) with prod := none } else r

/-- Mark the rings an instruction produces into as failed with its status, and release the rings it held (R67, R148,
R150). -/
def CoreArch.release (a : CoreArch) (id : Nat) (st : Status) : CoreArch :=
  { a with ring := a.ring.map fun r =>
      let r := r.unproduce id st
      if r.cons == some id then { r with cons := none } else r }

/-- The collective side of a fused instruction gives up the ring its all-gather fills; the pass keeps the rings it holds
(R148, R217, R218). -/
def CoreArch.releaseSide (a : CoreArch) (e : QEntry) (st : Status) : CoreArch :=
  if e.op == .agSide then a.setRing (bitsOf e.w 47 44) ((a.ringOf (bitsOf e.w 47 44)).unproduce e.id st) else a

/-- How far a sequence number lies behind a core's counter of a communicator counts as behind (R334). -/
def CoreSt.seqBehind (c : CoreSt) (x : Comm) (seq : BitVec 16) : Bool :=
  let k := (SMap.get 0 c.seq x.toNat - seq).toNat
  1 ≤ k && k ≤ 32767

/-- Keep the key of a completed collective of a repeat: a packet of it that comes once the repeat index is lower again is
known by it. Keys that are no longer behind are forgotten (R334). -/
def State.noteEnded (s : State) (a : Active) : State :=
  if a.r = 0 then s
  else
    s.modComm a.comm fun x =>
      { x with ended := (a.seq, a.r) :: x.ended.filter fun k => k != (a.seq, a.r) && (s.core a.core).seqBehind a.comm k.1 }

/-- Take an active collective out of the engine with a status: the slots it still holds are released, a region vote reports to its region, a fused side keeps
its status for the whole instruction, and any other collective's queue entry is returned for completion (R220, R349). -/
def State.takeColl (s : State) (a : Active) (st : Status) (value : Nat) : State × Option QEntry :=
  let s := { s with coll := { s.coll with active := s.coll.active.filter fun b => !a.same b } }
  let s := ((a.got.filter fun g => !g.freed).foldl (fun s g => s.oweChunk a g) s).noteEnded a
  let c := s.core a.core
  if a.op == .vote then
    (s.modCore a.core fun c =>
      match c.region with
      | none => c
      | some g => { c with region := some { g with voteResult := some (st, BitVec.ofNat 8 value) } }, none)
  else
    match c.cl.running.find? fun x => x.e.id == a.id with
    | none => (s, none)
    | some x =>
      if a.fused then
        let s := s.modCore a.core fun c =>
          { c with cl := { c.cl with running := c.cl.running.map fun y =>
              if y.e.id == a.id then { y with status := some st } else y } }
        (s.modArch a.core fun k => k.releaseSide x.e st, none)
      else
        (s.modCore a.core fun c => { c with cl := { c.cl with running := c.cl.running.filter fun y => y.e.id != a.id } },
         some x.e)

/-- Count a collective ended with TIMEOUT or SEQ_MISMATCH (R353). -/
def State.countFail (s : State) (st : Status) : State :=
  match st with
  | .timeout => { s with coll := { s.coll with timeouts := satAdd s.coll.timeouts 1 } }
  | .seqMismatch => { s with coll := { s.coll with seqMm := satAdd s.coll.seqMm 1 } }
  | _ => s

/-- Count and announce the failure of a collective: a CTRL ABORT with the status to every other member (R349, R353). -/
def State.announceFail (s : State) (a : Active) (st : Status) : State :=
  (s.countFail st).sendAll (((s.members (s.collAxes a)).filter fun x => x != s.coord).map fun x =>
    s.ctrlPacket a x false 3 st.code)

/-- A collective instruction ends: the entries this member dropped go into its descriptor, and raise capacity_drop. The answer
tells whether a poisoned word was written in part (R213, R346, R518). -/
def State.writeDrops (s : State) (a : Active) : State × Bool :=
  if a.op == .vote then (s, false)
  else
    let (s, part) := s.writeScratch a.core (a.desc + 36) (leBytes 4 a.drops)
    (if a.drops != 0 then s.modCore a.core fun c => c.setFlags 0x80 else s, part)

/-- A collective fails with a status and its members are told; its instruction is answered for completion (R349). -/
def State.failColl (s : State) (a : Active) (st : Status) : State × Option QEntry :=
  ((s.writeDrops a).1.announceFail a st).takeColl a st 3

/-! ### Digests (R369) -/

/-- The digest of the bytes a member brings to a collective (R369). -/
def collDigest (comm : Comm) (seq sig : BitVec 16) (bs : List Byte) : Word :=
  let h := mix64 (sig.zeroExtend 64 ^^^ (seq.zeroExtend 64 <<< 16) ^^^ (comm.zeroExtend 64 <<< 32))
  (List.range ((bs.length + 4095) / 4096)).foldl (fun (d : Word) j =>
    let part := (bs.drop (4096 * j)).take 4096
    let hj := (List.range ((part.length + 7) / 8)).foldl
      (fun (x : Word) i => mix64 (x ^^^ BitVec.ofNat 64 (natAt part (8 * i) 8))) (mix64 (h ^^^ BitVec.ofNat 64 j))
    d ^^^ mix64 hj) 0

/-- A communicator has an axis on D (R369, R370). -/
def State.onD (s : State) (c : Comm) : Bool :=
  match s.commOn c with
  | some (w, _) => (commAxes w).any fun a => a.ax == 3
  | none => false

/-- A collective that completes enters the step digest while the shadow mode is not off; what CL.A2A brings on a
communicator without an axis on D the spec does not say, so its digest is a free value (R369). -/
def State.digestColl (s : State) (a : Active) : State :=
  if s.step.modeOn = 0 then s
  else if a.op == .a2a then
    if s.onD a.comm then s
    else
      let (i, s) := s.fresh
      { s with step := { s.step with digestAcc := s.step.digestAcc ^^^ Config.free i } }
  else
    let bs := match a.op with
      | .vote => [a.vote]
      | .bar => []
      | _ => a.input
    { s with step := { s.step with digestAcc := s.step.digestAcc ^^^ collDigest a.comm a.seq a.sig bs } }

/-! ### Region votes (R80, R341) -/

/-- A region vote goes on: it sends what it can, and ends when every phase is complete. -/
def State.settleVote (s : State) (a : Active) : State :=
  let (s, a, done) := s.ctrlPhases a (s.collAxes a) []
  if done then ((s.digestColl a).takeColl a .ok (a.ctrlValue (s.collAxes a))).1 else s.putActive a

/-- What is held for the key of a vote that has just started acts on it: an ABORT ends it with the carried status, a CTRL of
another signature ends it with SEQ_MISMATCH, and a VOTE counts (R334, R349). -/
def State.voteMeets (s : State) (a : Active) : State :=
  let mine := fun (q : Packet) => q.ctx == a.seq && chunkR q == a.r
  let held := (SMap.get CommSt.reset s.coll.comms a.comm.toNat).heldCtrl.filter mine
  let s := s.modComm a.comm fun x => { x with heldCtrl := x.heldCtrl.filter fun q => !mine q }
  let s := { s with coll := { s.coll with active := s.coll.active ++ [a] } }
  let ended := if held.any fun q => chunkSig q != a.sig then some Status.seqMismatch
    else (held.find? fun q => ctrlSub q == 3).bind fun q => Status.ofCode (ctrlVal q)
  match ended with
  | some .seqMismatch => (s.failColl a .seqMismatch).1
  | some st => ((s.countFail st).takeColl a st 3).1
  | none => s.settleVote ((held.filter fun q => ctrlSub q == 2).foldl (fun a q => s.gotCtrl a q) a)

/-- A VOTE that nothing here answers: the engine votes dirty for a core that has FAULTED or STOPPED. The vote takes the
communicator's next sequence number on this member and the repeat index of the core's region; its signature is that of the
vote that waits (R80, R341). One such vote of a communicator runs at a time. -/
def State.standInOn (s : State) (c : Comm) : State :=
  match s.commOn c with
  | none => s
  | some (w, _) =>
    let n := commCore w
    let k := s.core n
    let held := (SMap.get CommSt.reset s.coll.comms c.toNat).heldCtrl
    if !(k.reg.run == .faulted || k.reg.run == .stopped) || s.coll.active.any (fun a => a.comm == c && a.op == .vote) then s
    else
      match held.find? fun p => ctrlSub p == 2 with
      | none => s
      | some p =>
        let seq := SMap.get 0 k.seq c.toNat
        let a := { Active.blank n c seq (BitVec.ofNat 2 k.rep.toNat) (chunkSig p) .vote with axes := 3, vote := 3 }
        let s := s.modCore n fun k => { k with seq := SMap.put 0 k.seq c.toNat (seq + 1) }
        s.voteMeets a

/-- Vote for core n, which has just FAULTED or STOPPED, where a VOTE is held for it. -/
def State.standIn (s : State) (n : Core) : State :=
  (s.coll.comms.filter fun x => match x.2.on with
    | some (w, _) => commCore w == n
    | none => false).foldl (fun s x => s.standInOn (BitVec.ofNat 8 x.1)) s

/-! ### The end of a core's work -/

/-- The statuses with which a core's aborted instructions complete: what has not started and what waits ends ABORTED, a
started instruction that has ended keeps its status, and a fused instruction ends once (R67, R220). -/
def CoreSt.abortList (c : CoreSt) : List (QEntry × Status) :=
  let final := fun (x : RunEntry) => c.endStatus x.g (x.status.getD .aborted)
  let plain := fun (q : Queue) =>
    ((q.running.filter fun x => !x.e.op.isFused).map fun x => (x.e, final x)) ++
    ((q.waiting.filter fun x => !x.op.isFused).map fun x => (x, Status.aborted))
  let side := fun (q : Queue) (id : Nat) => (q.running.find? fun x => x.e.id == id).map final
  let fusedOf := fun (q : Queue) =>
    ((q.running.map RunEntry.e) ++ q.waiting).filter fun x => x.op.isFused
  let fused := (fusedOf c.mx).map fun x =>
    (x, Status.orElse ((side c.cl x.id).getD .aborted) ((side c.mx x.id).getD .aborted))
  plain c.mx ++ fused ++ plain c.mv ++ plain c.vx ++ (c.stq.waiting.map fun x => (x, Status.aborted)) ++
    (c.cl.waiting.filter fun x => !x.op.isFused).map fun x => (x, Status.aborted)

/-- Put an ending into a list by falling status code: of endings in one cycle the larger code reaches a semaphore first
(R61). -/
def insertEnd (x : QEntry × Status) (xs : List (QEntry × Status)) : List (QEntry × Status) :=
  match xs with
  | [] => [x]
  | y :: r => if y.2.code < x.2.code then x :: y :: r else y :: insertEnd x r

/-- Instructions complete in one cycle and release their rings; the answer holds the address of the first whose signal
would raise its semaphore's count above 65,535 (R61). -/
def State.completeAll (s : State) (n : Core) (ends : List (QEntry × Status)) : State × Option Word :=
  (ends.foldl (fun xs x => insertEnd x xs) []).foldl (fun (acc : State × Option Word) x =>
    let full := ((acc.1.core n).complete x.1 x.2).2
    ((acc.1.modCore n fun c => (c.complete x.1 x.2).1).modArch n fun k => k.release x.1.id x.2,
      if full && acc.2.isNone then some x.1.pc else acc.2)) (s, none)

/-- End the active collectives of a core as ABORTED; the answer holds the instructions that complete so (R67, R349). -/
def State.abortColls (s : State) (n : Core) : State × List QEntry :=
  (s.coll.active.filter fun a => a.core == n).foldl (fun (acc : State × List QEntry) a =>
    let r := acc.1.failColl a .aborted
    (r.1, acc.2 ++ r.2.toList)) (s, [])

/-- Abort a core's queues (R67): what its engines have in flight completes, collectives end ABORTED, instructions complete
with abortList, and the streams and near-memory commands that have started go on to their own ends. All these endings are
taken to fall in one cycle. The answer holds the address of the first instruction whose signal overflows (R61). -/
def State.abortAll (s : State) (n : Core) : State × Option Word :=
  let r := (s.drainCore n).abortColls n
  let c := r.1.core n
  let ovf := (c.mx.running ++ c.mv.running ++ c.vx.running).any fun x => x.g.ovf
  let p := (r.1.modCore n fun c => c.overflowFlag ovf).completeAll n (r.2.map (fun e => (e, Status.aborted)) ++ c.abortList)
  (p.1.modCore n fun c =>
    { c with mx := Queue.reset, mv := Queue.reset, vx := Queue.reset, cl := Queue.reset, hold := .none
             stq := { waiting := [], running := c.stq.running.map fun x =>
               { x with g := { x.g with stop := true } } } }, p.2)

/-- The state after the core's queues are aborted. -/
def State.abortQueues (s : State) (n : Core) : State := (s.abortAll n).1

/-- A core fault without its effect on the part's vote (R75, R472, R482). A core that is FAULTED already keeps its first
cause. -/
def State.bareFault (s : State) (n : Core) (cause : BitVec 8) (pc : Word) : State :=
  if (s.core n).reg.run == .faulted then s
  else
  let s := s.abortQueues n
  let s := s.modCore n fun c =>
    let c := c.setFlags 0x20
    { c with reg := { c.reg with run := .faulted, faultCause := cause, faultPc := (pc >>> 3).truncate 61 }
             stopping := false }
  let s := s.standIn n
  let s := (s.irq n.val).event 0x06 0x01 2 .ok 0 n.val (BitVec.ofNat 64 cause.toNat)
  let s := if s.awl.onResidue && cause == 0x0A then s.driveFreeze 4 n.val else s
  if s.awl.onFault then s.driveFreeze 3 n.val else s

end Sys2Proof.Machine
end

