-- ==== Sys2Proof/Machine/Vote.lean ====
section
/-! DEFINITION. The step vote and its decision (R82, R356 to R372, R521, R522): contributions, the two rounds, STEP
packets, commit and abort, and the stacks' part in a decision (R255, R256). -/

namespace Sys2Proof.Machine

/-- The epoch E of the step: every copy on the part is equal; core 0's is read, or stack 0's while a reset of core 0 has its
copy (R180, R356, R486). -/
def State.epoch (s : State) : BitVec 32 :=
  if (s.core 0).phase == .service then (s.core 0).reg.srepoch else (s.stack[(0 : StackId)]).srepoch

/-- The key of the step, read likewise (R178, R180). -/
def State.stepSeed (s : State) : Word :=
  if (s.core 0).phase == .service then (s.core 0).reg.srkey else (s.stack[(0 : StackId)]).srkey

/-- Base and size of the vote group on axis i (R375). -/
def groupAxis (g : BitVec 32) (i : Nat) : Nat × Nat :=
  match i with
  | 0 => (bitsOf g 2 0, bitsOf g 5 3 + 1)
  | 1 => (bitsOf g 9 6, bitsOf g 13 10 + 1)
  | 2 => (bitsOf g 17 14, bitsOf g 21 18 + 1)
  | _ => (bitsOf g 26 22, bitsOf g 31 27 + 1)

/-- Whether a coordinate lies in the vote group (R358). -/
def inGroup (g : BitVec 32) (x : Coord) : Bool :=
  (List.range 4).all fun i =>
    let (b, n) := groupAxis g i
    b ≤ coordAt x i && coordAt x i < b + n

/-- The other parts of this part's line on axis i (R358). -/
def State.line (s : State) (i : Nat) : List Coord :=
  let (b, n) := groupAxis s.step.grpOn i
  ((List.range n).map fun q => coordSet s.coord i (b + q)).filter fun x => x != s.coord

/-- The arg field of a STEP packet (R361). -/
def stepArg (epoch : BitVec 32) (attempt : Byte) (sub axis : Nat) : BitVec 48 :=
  BitVec.ofNat 48 (epoch.toNat * 2 ^ 16 + attempt.toNat * 2 ^ 8 + sub % 16 * 16 + axis % 4 * 4)

/-- A STEP packet of this part (R361). -/
def State.stepPacket (s : State) (dst : Coord) (sub axis : Nat) (payload : List Byte) : Packet :=
  s.packet dst 2 9 0x21 (stepArg s.epoch s.step.attempt sub axis) s.step.vgidOn payload.length payload

/-- The epoch, attempt, subtype and phase axis of a STEP packet (R361). -/
def stepKey (k : Packet) : Nat × Nat × Nat × Nat :=
  (bitsOf k.arg 47 16, bitsOf k.arg 15 8, bitsOf k.arg 7 4, bitsOf k.arg 3 2)

/-- Whether a pair of epoch and attempt comes before the part's current pair (R361, R363). -/
def State.earlier (s : State) (epoch attempt : Nat) : Bool :=
  let de := (s.epoch.toNat + 2 ^ 32 - epoch) % 2 ^ 32
  let da := (s.step.attempt.toNat + 256 - attempt) % 256
  (de != 0 && de < 2 ^ 31) || (de == 0 && da != 0 && da < 128)

/-- Whether it is the current pair. -/
def State.current (s : State) (epoch attempt : Nat) : Bool :=
  epoch == s.epoch.toNat && attempt == s.step.attempt.toNat

/-! ### The stacks and a decision -/

/-- Give every stack a decision; one that still holds an earlier one acts on them in order (R255, R256). -/
def State.giveDecision (s : State) (b : Bool) : State :=
  { s with stack := s.stack.map fun x => { x with decisions := x.decisions ++ [b] }
           step := { s.step with given := s.step.given + 1 } }

/-- Whether every stack has acted on every decision. -/
def State.allActed (s : State) : Bool := s.stack.toList.all fun x => x.decisions.isEmpty

/-! ### Decisions -/

/-- The result of the completed rounds (R362, R376). -/
def State.voteResult (s : State) : BitVec 16 :=
  if !s.step.flagDone then 0
  else if s.step.sealDone then s.step.flagWord ||| s.step.sealWord else s.step.flagWord

/-- Records of one batch of the shuffle pool: B times records per sample (R403). -/
def State.batchRecords (s : State) : Nat := s.ing.gBatch.toNat * s.ing.gRps

/-- Bytes of one batch's slot: its records, then its counts padded to 256 B (R403). -/
def State.slotBytes (s : State) : Nat := s.batchRecords * s.ing.gZ + 256

/-- Address of the slot of batch e (R403). -/
def State.slotAddr (s : State) (e : Nat) : Nat :=
  s.ing.gPool.toNat * 64 + e % max 1 s.ing.gNbatch.toNat * s.slotBytes

/-- The first entry of batch e: the position at go and B for every epoch since (R392). -/
def State.loaderPos (s : State) (e : BitVec 32) : Word :=
  s.ing.start + BitVec.ofNat 64 ((e - s.ing.startEpoch).toNat * s.ing.gBatch.toNat)

/-- Write the replay record of the attempt being decided (R382). -/
def State.writeReplay (s : State) : State :=
  let r0 := fields [(32, s.epoch.toNat), (24, s.step.attempt.toNat), (0, s.voteResult.toNat)]
  let list := s.slotAddr s.epoch.toNat
  let v : Vector Word 8 := #v[r0, s.stepSeed, s.ing.gSeed, s.loaderPos s.epoch, BitVec.ofNat 64 s.batchRecords,
    BitVec.ofNat 64 list, if s.step.modeOn = 0 then 0 else s.step.digest, BitVec.ofNat 64 s.awl.nlog.toNat]
  { s with awl := { s.awl with rplrec := v, nlog := 0 } }

/-- A core that waits at STEP.COMMIT receives an abort: ABORTED in sd, rings, banks and heel empty, RUNNING (R365). -/
def CoreSt.abortWait (c : CoreSt) : CoreSt :=
  match c.hold with
  | .commitWait sd =>
    let a := (c.arch.setS sd.toNat (BitVec.ofNat 64 Status.aborted.code)).emptied
    ({ c with arch := a, reg := { c.reg with run := .running } }).advance
  | _ => c

/-- An attempt has been decided: the core has not voted or sealed in the next one, and nothing sealed or held for the seal
of the former enters it (R357, R365, R522). -/
def CoreSt.nextAttempt (c : CoreSt) (commit : Bool) : CoreSt :=
  { c with voted := false, sealed := false, sealWord := 0, flagsHeld := 0, ended := if c.voted then commit else c.ended }

/-- The next attempt, after a commit or not: no core has voted or sealed in it and no round has begun (R356, R365). -/
def State.newAttempt (s : State) (attempt : Byte) (commit : Bool) : State :=
  { s with
    cores := s.cores.map fun c => c.nextAttempt commit
    step := { s.step with attempt := attempt, flagSent := false, sealSent := false, sealing := false } }

/-- Signal the Clicker's semaphore on its bound core, or put it off until that core's region closes (R61, R406). -/
def State.clickerSignal (s : State) : State :=
  match s.commOn s.ing.gComm with
  | none => s
  | some (w, _) =>
    let n := commCore w
    if (s.core n).region.isSome then { s with ing := { s.ing with later := s.ing.later + 1 } }
    else
      let r := (s.core n).signal s.ing.gSem.toNat .ok
      let t := s.modCore n fun _ => r.1
      if r.2 then t.bareFault n 0x0C (s.core n).arch.pc else t

/-- Whether the batch of epoch e is READY (R405, R406). -/
def State.batchReady (s : State) (e : Nat) : Bool :=
  s.ing.gNbatch != 0 && s.ing.slots.getD (e % s.ing.gNbatch.toNat) .free == .ready

/-- The step aborts: the stacks discard E+1, the attempt advances, cores at STEP.COMMIT return ABORTED, and the
Clicker signals its READY batch again (R365, R382, R406). -/
def State.abortStep (s : State) : State :=
  let s := s.writeReplay
  let s := s.giveDecision false
  let e := s.epoch
  let a := s.step.attempt
  let s := { s with cores := s.cores.map CoreSt.abortWait
                    step := { s.step with decision := .abort, decided := some (e, a), committing := none } }
  let s := (s.newAttempt (a + 1) false).event 0x08 0x02 1 .aborted 0 partUnit (BitVec.ofNat 64 e.toNat)
  if s.batchReady e.toNat then s.clickerSignal else s

/-- The step commits: every stack receives the decision; the rest of the sequence follows when all have acted
(R364). -/
def State.commitStep (s : State) : State :=
  let s := s.giveDecision true
  let st := { s.step with decision := .commit, decided := some (s.epoch, s.step.attempt), committing := some true }
  ({ s with step := st }).event 0x08 0x01 0 .ok 0 partUnit (BitVec.ofNat 64 s.epoch.toNat)

/-! ### The rounds -/

/-- The words a phase on axis i has: those of parts marked absent, whatever comes from them, and those received (R358 to
R360, R371). -/
def State.phaseWord (s : State) (i : Nat) (x : Coord) : Option (BitVec 16) :=
  let sub := if s.step.sealing then 2 else 1
  match s.step.got.find? fun g => g.1 == x with
  | some g => some g.2
  | none => (s.step.held.find? fun k =>
      k.src == x && stepKey k == (s.epoch.toNat, s.step.attempt.toNat, sub, i)).map fun k =>
        BitVec.ofNat 16 (natAt k.payload 0 2)

/-- The word with bit absent set (R359). -/
def absentWord : BitVec 16 := 0x100

/-- A round completes: its result, the step interrupt, the freeze trigger, and the abort a dirty result brings with
auto_abort (R359, R362, R363, R472). -/
def State.roundDone (s : State) : State :=
  let w := s.step.word
  let s := if s.step.sealing then
      { s with step := { s.step with sealWord := w, sealDone := true, sealing := false } }
    else { s with step := { s.step with flagWord := w, flagDone := true, decision := .none } }
  let s := s.irq 16
  let s := if w != 0 && s.awl.onVote then s.driveFreeze 6 0 else s
  if w != 0 && s.step.autoOn && s.step.decision == .none then s.abortStep else s

/-- The packets that a RESEND asks for: those kept for its epoch, attempt and phase axis that went to its sender (R360). -/
def State.resent (s : State) (k : Packet) : List Packet :=
  let (e, a, _, i) := stepKey k
  s.step.kept.filter fun q =>
    let (e', a', _, i') := stepKey q
    q.dst == k.src && e == e' && a == a' && i == i'

/-- Whether a held packet is a RESEND for the phase on axis i of the current pair (R361). -/
def State.asksFor (s : State) (i : Nat) (k : Packet) : Bool :=
  stepKey k == (s.epoch.toNat, s.step.attempt.toNat, 3, i)

/-- Enter the phase on axis i: send this part's word to its line, mark fenced parts of the line absent at once, and answer
the RESENDs held for the phase (R358, R360, R361). -/
def State.enterPhase (s : State) (i : Nat) : State :=
  let sub := if s.step.sealing then 2 else 1
  let ks := (s.line i).map fun x => s.stepPacket x sub i (leBytes 8 s.step.word.toNat)
  let gone := ((s.line i).filter s.fencedCoord).map fun x => (x, absentWord)
  let s := { s with step := { s.step with phase := i, kept := s.step.kept ++ ks, got := gone, resends := [] } }
  let asked := s.step.held.filter fun k => s.asksFor i k
  let s := s.sendAll ks
  let s := s.sendAll (asked.flatMap s.resent)
  { s with step := { s.step with held := s.step.held.filter fun k => !s.asksFor i k } }

/-- Go on with the round from axis i: skip axes of size 1, enter the phase where it is not entered, combine the words of
a phase that has them all (R358). fuel counts the axes left. -/
def State.runPhases (s : State) (i : Nat) (entered : Bool) (fuel : Nat) : State :=
  match fuel with
  | 0 => s.roundDone
  | k + 1 =>
    if (groupAxis s.step.grpOn i).2 = 1 then s.runPhases (i + 1) false k
    else
      let s := if entered then s else s.enterPhase i
      let ws := (s.line i).map (s.phaseWord i)
      if ws.all Option.isSome then
        let w := ws.foldl (fun (a : BitVec 16) x => a ||| x.getD 0) s.step.word
        ({ s with step := { s.step with word := w } }).runPhases (i + 1) false k
      else s

/-- Whether a round is under way. -/
def State.inRound (s : State) : Bool :=
  (s.step.flagSent && !s.step.flagDone) || (s.step.sealSent && !s.step.sealDone)

/-- Go on with the round under way after a word has come or a part is absent. -/
def State.pokeRound (s : State) : State :=
  if s.inRound then s.runPhases s.step.phase true (4 - s.step.phase) else s

/-- Begin a round with this part's own word; a part outside its vote group keeps its own word as the result (R358). -/
def State.beginRound (s : State) (own : BitVec 16) : State :=
  let s := { s with step := { s.step with word := own, phase := 0 } }
  if inGroup s.step.grpOn s.coord then s.runPhases 0 false 4 else s.roundDone

/-! ### Contributions -/

/-- Whether a voter contributes by its state (R82, R486). -/
def CoreSt.byState (c : CoreSt) : Bool :=
  c.resetFault || c.reg.run == .faulted || c.reg.run == .stopped || c.reg.run == .halted

/-- Whether a core takes part in the vote (R82, R486). -/
def CoreSt.votes (c : CoreSt) : Bool :=
  c.isVoter && (c.resetFault || c.reg.run != .idle)

/-- A core's flag contribution, with what a core reset holds (R82, R486, R521). -/
def CoreSt.flagPart (c : CoreSt) : BitVec 16 :=
  if !c.votes then 0
  else if c.voted then c.voteWord
  else if c.byState then c.voteWord ||| (c.flags &&& 0x7F).zeroExtend 16 ||| (if c.resetFault then 0x20 else 0)
  else 0

/-- Take the flag contribution: what is contributed by state is cleared (R521). -/
def CoreSt.takeFlag (c : CoreSt) : CoreSt :=
  if c.votes && !c.voted && c.byState then { c with voteWord := 0, flags := 0 } else { c with voteWord := 0 }

/-- The update bits at their places in a round word (R359). -/
def updateBits (u : BitVec 2) : BitVec 16 := (if bitOf u 0 then 0x80 else 0) ||| (if bitOf u 1 then 0x200 else 0)

/-- A core's seal, by STEP.COMMIT or by its state, with the flags held for it (R357, R521, R522). -/
def CoreSt.sealPart (c : CoreSt) : BitVec 16 :=
  if !c.votes then 0
  else if c.sealed then c.sealWord ||| (c.flagsHeld &&& 0x7F).zeroExtend 16
  else if c.byState then
    ((c.flags ||| c.flagsHeld) &&& 0x7F).zeroExtend 16 ||| updateBits c.updates ||| (if c.resetFault then 0x20 else 0)
  else 0

/-- Take the seal: what it carries is cleared (R357, R522). -/
def CoreSt.takeSeal (c : CoreSt) : CoreSt :=
  let c := { c with sealWord := 0, flagsHeld := 0 }
  if c.votes && !c.sealed && c.byState then { c with flags := 0, updates := 0 } else c

/-- The OR of a part of every core's state. -/
def State.orCores (s : State) (f : CoreSt → BitVec 16) : BitVec 16 :=
  s.cores.toList.foldl (fun a c => a ||| f c) 0

/-- Whether every voter has voted or contributes by its state (R82). -/
def State.flagReady (s : State) : Bool :=
  s.cores.toList.all fun c => !c.votes || c.voted || c.byState

/-- Whether every voter has sealed or seals by its state (R357). -/
def State.sealReady (s : State) : Bool :=
  s.cores.toList.all fun c => !c.votes || c.sealed || c.byState

/-- A packet of the given subtype for the current pair is held from a part of the vote group (R521, R522). -/
def State.heardStep (s : State) (sub : Nat) : Bool :=
  s.step.held.any fun k =>
    let (e, a, b, _) := stepKey k
    s.current e a && b == sub && inGroup s.step.grp k.src

/-- The number under which a DIGEST is kept: its epoch and attempt. -/
def digestPair (e a : Nat) : Word := BitVec.ofNat 64 (e * 256 + a)

/-- A DIGEST is kept for the comparison at the commit of its pair, one for each sender and pair (R361, R370). -/
def State.takeDigest (s : State) (k : Packet) : State :=
  let (e, a, _, _) := stepKey k
  let live := s.step.digestGot.filter fun g => !s.earlier (g.2.1.toNat / 256) (g.2.1.toNat % 256)
  let same := fun (g : Coord × Word × Word) =>
    g.1 == k.src && (g.2.1 == digestPair e a || !(s.current e a || s.current (g.2.1.toNat / 256) (g.2.1.toNat % 256)))
  if s.earlier e a || live.any same then s
  else { s with step := { s.step with digestGot := live ++ [(k.src, digestPair e a, BitVec.ofNat 64 (natAt k.payload 0 8))] } }

/-- A packet of this part goes to another part, or is delivered as local traffic to this part itself (R302, R370). -/
def State.sendDigest (s : State) (k : Packet) : State := if k.dst == s.coord then s.takeDigest k else s.send k

/-- Begin the flag round: take the written configuration and the contributions, form the step digest, drop what was
kept, and send (R358, R360, R369, R370, R374). -/
def State.startFlag (s : State) : State :=
  let own := s.orCores CoreSt.flagPart
  let t := s.step
  let held := t.held.filter fun k => !s.earlier (stepKey k).1 (stepKey k).2.1
  let t := { t with vgidOn := t.vgid, vtoOn := t.vto, autoOn := t.autoAbort, grpOn := t.grp, modeOn := t.mode
                    digest := if t.modeOn = 0 then 0 else t.digestAcc, digestAcc := 0, kept := [], flagSent := true
                    flagDone := false, sealDone := false, sealSent := false, sealing := false, decision := .none
                    flagWord := 0, sealWord := 0, held := held }
  let s := { s with step := t, cores := s.cores.map CoreSt.takeFlag }
  let s := if t.modeOn = 1 then s.sendDigest (s.stepPacket t.peer 4 0 (leBytes 8 t.digest.toNat)) else s
  s.beginRound own

/-- Begin the seal round (R357, R358). -/
def State.startSeal (s : State) : State :=
  let own := s.orCores CoreSt.sealPart
  let s := { s with step := { s.step with sealSent := true, sealing := true }
                    cores := s.cores.map CoreSt.takeSeal }
  s.beginRound own

/-- Whether the part takes part in votes: it does not in FAULT (R494). -/
def State.mayVote (s : State) : Bool := s.clk.state != .fault && s.fastOn

/-- Begin whichever round is due: the flag round once the contribution is complete and some voter has voted, or a VOTE
has come when none votes; the seal round once the flag round is complete and the seals are, likewise (R82, R357, R521,
R522). -/
def State.pokeVote (s : State) : State :=
  let s :=
    if s.mayVote && !s.step.flagSent && s.step.committing.isNone && s.flagReady &&
        (s.cores.toList.any (fun c => c.votes && c.voted) || s.heardStep 1) then s.startFlag
    else s
  if s.mayVote && s.step.flagSent && s.step.flagDone && !s.step.sealSent && s.step.decision == .none && s.sealReady &&
      (s.cores.toList.any (fun c => c.votes && c.sealed) || s.heardStep 2) then s.startSeal
  else s

end Sys2Proof.Machine
end

