-- ==== Sys2Proof/Machine/Fault.lean ====
section
/-! DEFINITION. Taking a core fault, completing an instruction, stopping a core, and entry to FAULT: the shared
operations that stop work (R61, R67, R75, R80, R494). -/

namespace Sys2Proof.Machine

/-- A core faults with a cause at an instruction address (R75), and then counts in the vote by its state (R82). -/
def State.coreFault (s : State) (n : Core) (cause : BitVec 8) (pc : Word) : State := (s.bareFault n cause pc).pokeVote

/-- Signal semaphore i with a status; an overflow faults the core with cause 0x0C (R61). -/
def State.signal (s : State) (n : Core) (i : Nat) (st : Status) (pc : Word) : State :=
  let r := (s.core n).signal i st
  let t := s.modCore n fun _ => r.1
  if r.2 then t.coreFault n 0x0C pc else t

/-- An engine instruction completes with a status: flags, region, signal (R61, R73, R76, R79). -/
def State.complete (s : State) (n : Core) (e : QEntry) (st : Status) : State :=
  let r := (s.core n).complete e st
  let t := s.modCore n fun _ => r.1
  if r.2 then t.coreFault n 0x0C e.pc else t

/-- Retire an instruction that has ended with st: an overflow outside a region sets repeat_exhausted, and it completes
with its final status (R61, R81). -/
def State.finish (s : State) (n : Core) (e : QEntry) (g : Progress) (st : Status) : State :=
  let st := (s.core n).endStatus g st
  (s.modCore n fun c => c.overflowFlag g.ovf).complete n e st

/-- Request a repeat of the open region (R172). -/
def CoreSt.askRepeat (c : CoreSt) : CoreSt :=
  match c.region with
  | none => c
  | some g => { c with region := some { g with overflow := true } }

/-- Record that the open region produced NaN (R79). -/
def CoreSt.sawNan (c : CoreSt) : CoreSt :=
  match c.region with
  | none => c
  | some g => { c with region := some { g with nan := true } }

/-- End a collective: with OK or CAPACITY_DROP it completes, otherwise it fails and its members are told (R349). -/
def State.endColl (s : State) (a : Active) (st : Status) (value : Nat) : State :=
  let s := if st = .ok || st = .capacityDrop then s else (s.writeDrops a).1.announceFail a st
  let (s, e) := s.takeColl a st value
  match e with
  | none => s
  | some e => s.complete a.core e st

/-- Entry to STOPPED after a stop (R67, R68, R73). -/
def State.enterStopped (s : State) (n : Core) : State :=
  let s := s.modCore n fun c =>
    let c := if c.region.isSome then c.setFlags 0x20 else c
    { c with stopping := false, hold := .none, reg := { c.reg with run := .stopped, lastStatus := .aborted } }
  ((s.standIn n).irq n.val).pokeVote

/-- Begin a stop of a core that is RUNNING or WAITING: at STEP.COMMIT it ends at once; otherwise its queues are aborted
and it stops when its started work has ended (R67). -/
def State.beginStop (s : State) (n : Core) : State :=
  match (s.core n).hold with
  | .commitWait sd =>
    (s.modArch n fun a => a.setS sd.toNat (BitVec.ofNat 64 Status.aborted.code)).enterStopped n
  | _ =>
    let r := s.abortAll n
    match r.2 with
    | some pc => r.1.coreFault n 0x0C pc
    | none => r.1.modCore n fun c => { c with stopping := true }

end Sys2Proof.Machine
end

