-- ==== Sys2Proof/Machine/Operands.lean ====
section
/-! DEFINITION. Operand fields, the checks made at issue in their order (R190 to R193), and issue itself: sequencer
instructions act at once, engine instructions take a place in their queue (R57 to R60, R202). -/

namespace Sys2Proof.Machine

/-- Bits [hi:lo] of an instruction are zero, as a reserved field must be. -/
def clear (w : BitVec 48) (hi lo : Nat) : Bool := bitsOf w hi lo == 0

/-- sd of formats R, I, B and S. Format B has it at [43:38] (R191). -/
def fSd (w : BitVec 48) : Nat := bitsOf w 47 42
/-- sa of formats R, I and S, and sem of format S (R191). -/
def fSa (w : BitVec 48) : Nat := bitsOf w 41 36
/-- sb of format R (R191). -/
def fSb (w : BitVec 48) : Nat := bitsOf w 35 30
/-- imm32 of format I, extended with its sign (R191). -/
def fImmS (w : BitVec 48) : Word := (w.truncate 32).signExtend 64
/-- imm32 of format I, extended with zeros (R191). -/
def fImmU (w : BitVec 48) : Word := (w.truncate 32).zeroExtend 64
/-- imm16 of formats P and S (R191). -/
def fImm16 (w : BitVec 48) : BitVec 16 := w.truncate 16

/-- Cause 0x02: a reserved field that holds a one, or a value marked reserved (R75, R190). -/
def cResv : BitVec 8 := 0x02
/-- Cause 0x03: a reserved format or rounding code (R75, R190). -/
def cFmt : BitVec 8 := 0x03
/-- Cause 0x04: misaligned (R75, R190). -/
def cAlign : BitVec 8 := 0x04
/-- Cause 0x05: outside the region's window (R75). -/
def cWindow : BitVec 8 := 0x05
/-- Cause 0x0D: in no space reachable by core programs (R75). -/
def cSpace : BitVec 8 := 0x0D

/-- The first failing check of a list of (must hold, cause). -/
def firstFail (xs : List (Bool × BitVec 8)) : Option (BitVec 8) :=
  match xs with
  | [] => none
  | (ok, c) :: r => if ok then firstFail r else some c

/-- The checks of the engine tail (R192). -/
def tailOk (w : BitVec 48) : Bool := (tailSen w || tailSsem w == 0) && (tailWcnt w != 0 || tailWsem w == 0)

/-- The functions of each major opcode (R194 to R219). -/
def opcodeMap : List (Nat × List Nat) :=
  [(0x01, List.range 13), (0x02, List.range 7), (0x03, List.range 8), (0x04, List.range 3), (0x05, List.range 4),
    (0x06, [0x00, 0x01, 0x02, 0x10]), (0x07, [0x00, 0x01, 0x10, 0x11]), (0x08, List.range 5), (0x10, List.range 3),
    (0x11, List.range 8), (0x20, List.range 5), (0x21, [0x00]), (0x30, List.range 11), (0x40, List.range 6)]

/-- Whether the opcode map lists the major opcode and function of an instruction word (R190, R194). -/
def opcodeListed (w : Nat) : Bool :=
  opcodeMap.any fun x => x.1 == w / 2 ^ 56 % 256 && x.2.contains (w / 2 ^ 48 % 256)

/-- The instruction word at the core's pc, where its instruction buffer holds the line (R53, R191). -/
def CoreSt.wordAtPc (c : CoreSt) : Option Nat :=
  (c.code.find? fun x => x.1 == (c.arch.pc >>> 6).truncate 58).map fun x => natAt x.2 (c.arch.pc.toNat % 64) 8

/-- Whether the word at the core's pc is of an undefined opcode (R190). -/
def CoreSt.undefinedWord (c : CoreSt) : Bool :=
  match c.wordAtPc with
  | some w => !opcodeListed w
  | none => false

/-- Whether core n takes up the instruction at its pc: its clocks run, it is RUNNING, in service, and nothing holds or stops
it (R57, R202). -/
def State.atIssue (s : State) (n : Core) : Bool :=
  let c := s.core n
  s.fastOn && c.reg.run == .running && c.hold == .none && !c.stopping && c.phase == .service

/-- Whether core n issues an instruction of the opcode map (R57, R190, R202). -/
def State.canIssue (s : State) (n : Core) : Bool := s.atIssue n && !(s.core n).undefinedWord

/-- Issue on core n: a word of an undefined opcode faults the core with cause 0x01, whatever instruction a command names; a
failing check faults it at this instruction; otherwise the instruction acts. Nothing happens on a core that does not issue
(R190, log 4). -/
def State.issue (s : State) (n : Core) (chk : Option (BitVec 8)) (f : State → State) : State :=
  if s.canIssue n then
    match chk with
    | some c => s.coreFault n c (s.core n).arch.pc
    | none => f s
  else if s.atIssue n then s.coreFault n 0x01 (s.core n).arch.pc
  else s

/-- A sequencer instruction that changes only its core and ends in its issue cycle (R202). -/
def State.issueSeq (s : State) (n : Core) (chk : Option (BitVec 8)) (f : CoreSt → CoreSt) : State :=
  s.issue n chk fun s => s.modCore n fun c => (f c).advance

/-- A sequencer instruction that holds issue (R202). -/
def State.issueHold (s : State) (n : Core) (chk : Option (BitVec 8)) (h : CoreSt → Hold) : State :=
  s.issue n chk fun s => s.modCore n fun c => { c with hold := h c }

/-- The end of a hold: the core changes and the next instruction issues (R202). -/
def State.resume (s : State) (n : Core) (f : CoreSt → CoreSt) : State := s.modCore n fun c => (f c).advance

/-- The predicate of an engine instruction, read at issue (R193). -/
def CoreArch.tailPred (a : CoreArch) (w : BitVec 48) : Bool := a.pred (tailPidx w) != tailPinv w

/-- The collective side's operation of a fused instruction (R217). -/
def EngOp.clSide (o : EngOp) : Option EngOp :=
  match o with
  | .mxAg => some .agSide
  | .mxRs => some .rsSide
  | _ => none

/-- Whether the queues an instruction enters have a free place: 16 places in each (R57, R217). -/
def CoreSt.hasPlace (c : CoreSt) (q : QueueId) (e : QEntry) : Bool :=
  (c.queue q).waiting.length < 16 && (e.op.clSide.isNone || c.cl.waiting.length < 16)

/-- Place an instruction in its queue, and the collective side of a fused one in the CL queue (R57, R217). -/
def CoreSt.place (c : CoreSt) (q : QueueId) (e : QEntry) : CoreSt :=
  let k := c.queue q
  let c := c.setQueue q { k with waiting := k.waiting ++ [e] }
  match e.op.clSide with
  | none => c
  | some o => { c with cl := { c.cl with waiting := c.cl.waiting ++ [{ e with op := o }] } }

/-- Issue an engine instruction: scalars a, b, c and the predicate are read now (R59); it takes its place, or holds
issue until one frees (R57). -/
def State.issueEngine (s : State) (n : Core) (q : QueueId) (op : EngOp) (w : BitVec 48) (a b c : Nat)
    (chk : Option (BitVec 8)) : State :=
  s.issue n chk fun s => s.modCore n fun k =>
    let e : QEntry := { id := k.nextId, op := op, w := w, a := k.arch.sreg a, b := k.arch.sreg b, c := k.arch.sreg c
                        pc := k.arch.pc, act := k.arch.tailPred w }
    let k := { k with nextId := k.nextId + 1 }
    if k.hasPlace q e then (k.place q e).advance else { k with hold := .place q e }

end Sys2Proof.Machine
end

