-- ==== Sys2Proof/Machine/Stream.lean ====
section
/-! DEFINITION. The stream engine (R151 to R168, R204, R298): descriptors, the checks of ST.GO, requests and tags,
replies, acknowledgements, time limits and completion. -/

namespace Sys2Proof.Machine

/-! ### Descriptors -/

/-- Ring of a stream. -/
def Stream.ring (t : Stream) : Nat := bitsOf t.ctl 31 28
/-- Whether the stream writes memory (dir 1). -/
def Stream.writes (t : Stream) : Bool := bitsOf t.ctl 27 26 == 1
/-- Element size in bytes. -/
def Stream.esize (t : Stream) : Nat := 2 ^ bitsOf t.ctl 25 24
/-- Dimensions in use. -/
def Stream.dims (t : Stream) : Nat := bitsOf t.ctl 23 21 + 1
/-- Whether the last slot is the end of the stream (R149). -/
def Stream.eos (t : Stream) : Bool := bitOf t.ctl 20

/-- Strides, as signed numbers, and counts of the dimensions in use, innermost first (R151, R152). -/
def Stream.dimList (t : Stream) : List (Int × Nat) :=
  ((t.stride.map BitVec.toInt).zip (t.count.map BitVec.toNat)).take t.dims

/-- Elements of the stream. -/
def Stream.total (t : Stream) : Nat := (t.dimList.map Prod.snd).foldl (· * ·) 1

/-- First address: addr + off modulo 2^64 (R152). -/
def Stream.base (t : Stream) : Word := t.addr + t.off

/-- Offset of element i from the first address, dimension 0 innermost (R152). -/
def elemOff (ds : List (Int × Nat)) (i : Nat) : Int :=
  match ds with
  | [] => 0
  | (st, c) :: r => (i % c : Nat) * st + elemOff r (i / c)

/-- Address of element i, modulo 2^64 (R152). -/
def Stream.elem (t : Stream) (i : Nat) : Nat := (((t.base.toNat : Int) + elemOff t.dimList i) % 2 ^ 64).toNat

/-- Lowest and highest offsets that elements reach (R153). -/
def Stream.span (t : Stream) : Int × Int :=
  t.dimList.foldl (fun a d =>
    let x := d.1 * ((d.2 : Int) - 1)
    if x < 0 then (a.1 + x, a.2) else (a.1, a.2 + x)) (0, 0)

/-- Form of an address: 0 local, 2 remote (R500). -/
def addrForm (a : Nat) : Nat := a / 2 ^ 62 % 4
/-- Destination coordinate of a remote address (R500). -/
def addrCoord (a : Nat) : Coord := BitVec.ofNat 16 (a / 2 ^ 46)
/-- Local part of an address (R500). -/
def addrLocal (a : Nat) : Nat := a % 2 ^ 46

/-- Whether the stream is remote (R501). -/
def Stream.remote (t : Stream) : Bool := addrForm t.base.toNat == 2

/-- The stream register that a 96 B descriptor loads (R151). -/
def Stream.load (bs : List Byte) : Stream :=
  { Stream.reset with
    addr := BitVec.ofNat 64 (natAt bs 0 8), ctl := BitVec.ofNat 64 (natAt bs 8 8)
    stride := (List.range 5).map fun j => BitVec.ofNat 64 (natAt bs (16 + 16 * j) 8)
    count := (List.range 5).map fun j => BitVec.ofNat 32 (natAt bs (24 + 16 * j) 4)
    resv := (List.range 5).map fun j => BitVec.ofNat 32 (natAt bs (28 + 16 * j) 4) }

/-- Whether the ends of a stream lie in one space: one reachable space, or one remote coordinate within the extents
(R153, R501). -/
def State.endsOk (s : State) (lo hi : Int) : Bool :=
  if lo < 0 || hi ≥ 2 ^ 64 then false
  else
    let l := lo.toNat
    let h := hi.toNat
    if addrForm l == 2 then addrForm h == 2 && addrCoord l == addrCoord h && s.inExtents (addrCoord l)
    else
      match s.space l with
      | none => false
      | some i => s.space h == some i

/-- Whether every byte of the stream lies in the window of its direction: one range holds the whole span, or every
element lies in a range (R77, R153). -/
def CoreSt.streamWindow (c : CoreSt) (k : Core) (t : Stream) : Bool :=
  let (lo, hi) := t.span
  let b : Int := t.base.toNat
  let e := t.esize
  c.inWindow k t.writes (b + lo).toNat ((hi - lo).toNat + e) ||
    (List.range t.total).all fun i => c.inWindow k t.writes (t.elem i) e

/-- The checks of ST.GO at its start, in order (R153). -/
def State.goCheck (s : State) (n : Core) (t : Stream) : Option (BitVec 8) :=
  let ds := t.dimList
  let (lo, hi) := t.span
  let b : Int := t.base.toNat
  let fieldsOk := bitsOf t.ctl 63 32 == 0 && bitsOf t.ctl 19 0 == 0 && bitsOf t.ctl 27 26 ≤ 1 &&
    bitsOf t.ctl 25 24 ≤ 2 && bitsOf t.ctl 23 21 ≤ 4 && (t.resv.take t.dims).all (· == 0)
  let sizeOk := ds.all (fun d => d.2 != 0) && t.total * t.esize ≤ 2 ^ 40
  let alignOk := t.base.toNat % t.esize == 0 && ds.all fun d => d.1 % t.esize == 0
  firstFail [(fieldsOk && sizeOk, cResv), (alignOk, cAlign), (s.endsOk (b + lo) (b + hi + t.esize - 1), cSpace),
    ((s.core n).streamWindow n t, cWindow)]

/-! ### Requests and tags -/

/-- Stream t of a core. -/
def CoreArch.stOf (a : CoreArch) (t : Fin 16) : Stream := a.st[t]

/-- Change stream t of core n. -/
def State.modStream (s : State) (n : Core) (t : Fin 16) (f : Stream → Stream) : State :=
  s.modArch n fun a => { a with st := vmod a.st t f }

/-- Elements of the next request: consecutive in stream order, in one granule, never in a lower line than the one
before, within 4 KiB and within limit bytes (R155, R161). -/
def reqLen (t : Stream) (first limit : Nat) (k : Nat) (fuel : Nat) : Nat :=
  match fuel with
  | 0 => k
  | f + 1 =>
    if first + k ≥ t.total then k
    else if (k + 1) * t.esize > min 4096 limit then k
    else
      let p := t.elem (first + k - 1)
      let q := t.elem (first + k)
      if k != 0 && (q / 4096 != p / 4096 || q / 64 < p / 64) then k else reqLen t first limit (k + 1) f

/-- First tag and size of the pool a stream uses: read 0, write 64, remote 96 (R156). -/
def Stream.pool (t : Stream) : Nat × Nat := if t.remote then (96, 32) else if t.writes then (64, 32) else (0, 64)

/-- The lowest free tag of a pool; the remote pool is held to the window (R156, R162). -/
def CoreSt.freeTag (c : CoreSt) (t : Stream) : Option Nat :=
  let (b, k) := t.pool
  let held := (c.tags.filter fun x => b ≤ x.1 && x.1 < b + k).length
  if t.remote && held ≥ c.window then none
  else ((List.range k).map (b + ·)).find? fun x => !(c.tags.any fun y => y.1 == x)

/-- Hold a tag for a request of stream t and advance its use count (R163). -/
def CoreSt.takeTag (c : CoreSt) (tag t first : Nat) : CoreSt :=
  { c with tags := c.tags ++ [(tag, t, first)], tagUse := vputD c.tagUse tag (vgetD c.tagUse tag 0 + 1) }

/-- Release a tag (R158, R159, R163). -/
def CoreSt.dropTag (c : CoreSt) (tag : Nat) : CoreSt := { c with tags := c.tags.filter fun x => x.1 != tag }

/-- Blocks of a stream issued and not yet released from its ring (R157). -/
def CoreSt.lead (c : CoreSt) (t : Stream) : Nat :=
  t.reqs.length + ((c.arch.ringOf t.ring).slots.filter fun x => x.st != .empty && x.owner == t.id).length

/-- The class of a stream's blocks (R226). -/
def Stream.cls (t : Stream) : WeltClass := if !t.remote then .mem else if t.writes then .req else .rsp

/-- Whether a stream has a failure: one of its own or of a request (R164). -/
def Stream.broken (t : Stream) : Bool := t.failed.isSome || t.reqs.any fun r => r.done && r.status != .ok

/-- Whether the stream's instruction is being stopped (R67). -/
def CoreSt.stopAt (c : CoreSt) (id : Nat) : Bool := c.stq.running.any fun x => x.e.id == id && x.g.stop

/-- Set the failure of a stream where it has none. -/
def Stream.fail (t : Stream) (st : Status) : Stream := if t.failed.isSome then t else { t with failed := some st }

/-- The ctx field of a request or reply (R296). -/
def reqCtx (n : Core) (tag : Nat) (uc : BitVec 4) (mh : Bool) : BitVec 16 :=
  BitVec.ofNat 16 (tag % 128 + uc.toNat * 128 + n.val * 2048 + b2n mh * 32768)

/-- Whether requests of a remote stream are answered FENCED: this part is fenced or the destination is (R165, R312,
R501). -/
def State.remoteFenced (s : State) (t : Stream) : Bool :=
  t.remote && (s.fab.fenced || s.fencedCoord (addrCoord t.base.toNat))

/-- Whether a remote stream's destination is this part, whose requests are delivered as local traffic (R302, R501). -/
def State.selfRemote (s : State) (t : Stream) : Bool := t.remote && addrCoord t.base.toNat == s.coord

/-- Whether a packet is a request of core n under a tag (R296, R297). -/
def isRequest (n : Core) (tag : Nat) (k : Packet) : Bool :=
  k.kind.toNat < 2 && bitsOf k.ctx 14 11 == n.val && bitsOf k.ctx 6 0 == tag

/-- A READ packet for the span of lines that a request names (R155, R297). -/
def State.readPacket (s : State) (n : Core) (t : Stream) (r : Req) : Packet :=
  let first := addrLocal (t.elem r.first) / 64 * 64
  let last := (addrLocal (t.elem (r.first + r.cnt - 1)) + t.esize - 1) / 64 * 64 + 63
  s.packet (addrCoord t.base.toNat) 0 0 0 (BitVec.ofNat 48 first) (reqCtx n r.tag r.uc false) (last - first) []

/-- The number of the pool a stream uses: read 0, write 1, remote 2 (R156). -/
def Stream.poolNo (t : Stream) : Fin 3 := if t.remote then 2 else if t.writes then 1 else 0

/-- Whether stream t has a request to issue: elements left and no failure, and a lead below slots + 16, or data for it at
its ring's head (R157, R159, R164). -/
def State.wants (s : State) (n : Core) (t : Fin 16) : Bool :=
  let c := s.core n
  let x := c.arch.stOf t
  let g := c.arch.ringOf x.ring
  x.active && !x.broken && x.next < x.total && !c.stopAt x.id && !s.remoteFenced x &&
    (if x.writes then decide (x.esize ≤ g.avail) else decide (c.lead x < g.nslots.toNat + 16))

/-- Stream t's request for a staging block (R227). -/
def blockFor (n : Core) (t : Fin 16) : BlockWait := { user := .stream n t, owner := n.val }

/-- Whether stream t can issue a request: it has one, a tag and a block (R156, R157, R159). -/
def State.streamReady (s : State) (n : Core) (t : Fin 16) : Bool :=
  let x := (s.core n).arch.stOf t
  s.wants n t && ((s.core n).freeTag x).isSome && (s.welt.claim x.cls (blockFor n t)).2.isSome

/-- Places of a stream register behind the one that its pool last granted, in round-robin order (R156). -/
def CoreSt.behind (c : CoreSt) (p : Fin 3) (t : Fin 16) : Nat := (t.val + 15 - (c.lastGrant[p]).val) % 16

/-- Whether its pool grants stream t next: no stream that can issue from the pool comes before it in round-robin order
(R156). -/
def State.turnOf (s : State) (n : Core) (t : Fin 16) : Bool :=
  let c := s.core n
  let p := (c.arch.stOf t).poolNo
  (List.finRange 16).all fun u =>
    decide (c.behind p t ≤ c.behind p u) || (c.arch.stOf u).poolNo != p || !s.streamReady n u

/-- A pool has granted stream t (R156). -/
def CoreSt.grantTo (c : CoreSt) (t : Fin 16) : CoreSt :=
  { c with lastGrant := vput c.lastGrant (c.arch.stOf t).poolNo t }

/-- A local request as the units it reaches accept it, each with its unit epoch, or refuse it while in reset (R277, R483,
R484). -/
def State.accepted (s : State) (t : Stream) (r : Req) : Req :=
  if t.remote && !s.selfRemote t then r
  else
    let as := (List.range r.cnt).map fun i => addrLocal (t.elem (r.first + i))
    { r with status := if as.all s.serves then r.status else .refusedReset, via := (as.filterMap s.unitAt).eraseDups }

/-- The next read request of stream t issues when it has elements left, a lead below slots + 16, a free tag and a
landing block, and its pool's turn (R155 to R157, R229). -/
def execReadRequestIssue (n : Core) (t : Fin 16) (s : State) : Host.Outcome State Fault Refusal :=
  .next <|
    let c := s.core n
    let x := c.arch.stOf t
    if !(s.fastOn && x.active && !x.writes && !x.broken && x.next < x.total && !c.stopAt x.id) then s
    else if s.remoteFenced x then s.modStream n t fun x => x.fail .fenced
    else if c.lead x ≥ (c.arch.ringOf x.ring).nslots.toNat + 16 then s
    else
      match c.freeTag x with
      | none => s
      | some tag =>
        let (wl, blk) := s.welt.claim x.cls (blockFor n t)
        if blk.isNone then { s with welt := wl }
        else if !s.turnOf n t then s
        else
          let s := { s with welt := wl }
          let k := reqLen x x.next 4096 0 4096
          let s := s.modCore n fun c => (c.takeTag tag t.val x.next).grantTo t
          let r : Req := s.accepted x { first := x.next, cnt := k, tag := tag, uc := vgetD (s.core n).tagUse tag 0, need := 1
                                        done := false, data := [], status := .ok, blk := blk }
          let s := s.modStream n t fun x => { x with next := x.next + k, reqs := x.reqs ++ [r] }
          if x.remote && !s.selfRemote x then s.send (s.readPacket n x r)
          else s.wakeAt ((List.range k).map fun i => addrLocal (x.elem (r.first + i)))

/-- Whether a request is a read of a remote address. -/
def isRemoteReq (tag : Nat) : Bool := 96 ≤ tag

/-- The stream and first element for which a tag is held with a use count (R163). -/
def CoreSt.tagOf (c : CoreSt) (tag : Nat) (uc : BitVec 4) : Option (Fin 16 × Nat) :=
  if vgetD c.tagUse tag 0 != uc then none
  else (c.tags.find? fun x => x.1 == tag).map fun x => (Fin.ofNat 16 x.2.1, x.2.2)

/-- Whether a request gives up its block as it is answered with a status: a write does, and a remote read that is abandoned;
the block of a local read stays with its stream (R163, R230). -/
def Stream.gives (t : Stream) (st : Status) : Bool :=
  t.writes || (t.remote && (st == .timeout || st == .refusedReset || st == .fenced))

/-- Return the block of a request, where it holds one (R230). -/
def State.giveReq (s : State) (n : Core) (t : Stream) (r : Req) : State :=
  match r.blk with
  | some pool => s.giveBlock t.cls n.val pool
  | none => s

/-- Answer a request: the tag is released, and its bytes or its failure are kept in stream order (R158, R159, R163,
R164); its block goes back where the answer ends its use (R230). -/
def State.answer (s : State) (n : Core) (t : Fin 16) (first tag : Nat) (st : Status) (data : List Byte) : State :=
  let x := (s.core n).arch.stOf t
  let s := (s.modCore n fun c => c.dropTag tag).modStream n t fun x =>
    { x with reqs := x.reqs.map fun r =>
        if r.first == first then
          { r with done := true, data := data, status := st, blk := if x.gives st then none else r.blk }
        else r }
  match x.reqs.find? fun r => r.first == first with
  | some r => if x.gives st then s.giveReq n x r else s
  | none => s

/-- The bytes of a request's elements in order, or how the read failed: one that was refused as it reached its unit stays so
(R76, R155, R163, R258, R277, R483). -/
def State.fetchElems (s : State) (t : Stream) (r : Req) (e : Ecc) : State × Status × List Byte :=
  let as := (List.range r.cnt).map fun i => addrLocal (t.elem (r.first + i))
  if r.status != .ok then (s, r.status, [])
  else
    let s := match e with
      | .words _ => s.wordErrors false (as.flatMap fun a => s.wordsOf false a t.esize) e
      | .symbols _ => s.wordErrors false (as.flatMap fun a => s.wordsOf false a t.esize) e
      | e => (s.readMem false (as.headD 0) t.esize e).1
    if as.any (fun a => s.anyPoison false a t.esize) then (s, .eccUncorrectable, [])
    else (s, .ok, as.flatMap fun a => s.bytes false a t.esize)

/-- Whether the memory of this part that a request in remote form names exists; a request that names none is not answered
(R225, R301, R501). -/
def State.reachable (s : State) (t : Stream) (r : Req) : Bool :=
  !t.remote || (List.range r.cnt).all fun i => s.reach (addrLocal (t.elem (r.first + i))) t.esize

/-- The remote window after a completion that echoes a mark or not: halved, unless one of the changes whose next w
completions are still to come has seen a decrease, and one wider after a window's worth without a mark (R162, log 48). -/
def CoreSt.windowStep (c : CoreSt) (mark : Bool) : CoreSt :=
  let opened := (c.opened.map fun x => (x.1 - 1, x.2)).filter fun x => x.1 != 0
  if mark then
    if c.opened.all fun x => !x.2 then
      let w := max 1 (c.window / 2)
      { c with window := w, clean := 0, opened := (w, false) :: opened.map fun x => (x.1, true) }
    else { c with clean := 0, opened := opened }
  else if c.clean + 1 ≥ c.window then
    let w := min 32 (c.window + 1)
    { c with window := w, clean := 0, opened := (w, false) :: opened }
  else { c with clean := c.clean + 1, opened := opened }

/-- A completion of this part's own under a remote tag counts in the remote window (R162, R501). -/
def State.selfStep (s : State) (n : Core) (t : Stream) : State :=
  if t.remote then s.modCore n fun c => c.windowStep false else s

/-- A local read reply lands in its block and its tag is released; a late reply, and one of a unit that has been reset since, is dropped
(R158, R163, R277, R484). -/
def execReadReplyLand (n : Core) (tag : BitVec 7) (uc : BitVec 4) (e : Ecc) (s : State) :
    Host.Outcome State Fault Refusal :=
  .next <|
    match (s.core n).tagOf tag.toNat uc with
    | none => s
    | some (t, first) =>
      let x := (s.core n).arch.stOf t
      if !s.fastOn || x.writes || (x.remote && !s.selfRemote x) then s
      else
        match x.reqs.find? fun r => r.first == first with
        | none => s
        | some r =>
          if !s.reachable x r || (r.status == .ok && !s.sameEpochs r.via) then s
          else
            let (s, st, bs) := s.fetchElems x r e
            (s.selfStep n x).answer n t first tag.toNat st bs

/-- The landed block that is next in stream order moves into the EMPTY tail slot, which becomes FULL; the last block of
an eos stream is end-marked. A poisoned word written in part turns only the stream's status; a block in which the code finds
an uncorrectable error is not delivered and fails the stream (R149, R154, R158, R164, R235, R518). -/
def State.blockMove (s : State) (n : Core) (t : Fin 16) (e : Ecc) : State :=
    let c := s.core n
    let x := c.arch.stOf t
    match x.reqs with
    | [] => s
    | r :: rest =>
      if !(s.fastOn && x.active && !x.writes && r.done && r.status == .ok && (c.arch.ringOf x.ring).hasRoom &&
          !c.stopAt x.id) then s
      else
        let last := r.first + r.cnt ≥ x.total
        let (s, fails) := s.stagingErrors e
        if fails then
          s.modStream n t fun x => { x with reqs := { r with data := [], status := .eccUncorrectable } :: rest }
        else
          let (s, bad) := s.ringPut n x.ring x.id r.data (last && x.eos)
          (s.modStream n t fun x => { x with reqs := rest, soft := x.soft || bad }).giveReq n x r

/-- The bytes a write request names, as cells of memory. -/
def Stream.cells (t : Stream) (first : Nat) (bs : List Byte) : List (Nat × Byte) :=
  (List.range bs.length).zip bs |>.map fun p => (addrLocal (t.elem (first + p.1 / t.esize)) + p.1 % t.esize, p.2)

/-- Put a dimension into a list by the size of its stride. -/
def insertDim (d : Nat × Nat) (ds : List (Nat × Nat)) : List (Nat × Nat) :=
  match ds with
  | [] => [d]
  | x :: r => if d.1 ≤ x.1 then d :: x :: r else x :: insertDim d r

/-- Whether the strides show that no two elements of a stream share a byte: each steps past all that the smaller ones
span. -/
def Stream.apart (t : Stream) : Bool :=
  let ds := (t.dimList.filter fun d => 1 < d.2).foldl (fun ds d => insertDim (d.1.natAbs, d.2) ds) []
  (ds.foldl (fun (a : Bool × Nat) d => (a.1 && decide (a.2 ≤ d.1), a.2 + d.1 * (d.2 - 1))) (true, t.esize)).1

/-- Whether an element before i names the byte at an address. -/
def Stream.named (t : Stream) (i a : Nat) : Bool :=
  !t.apart && (List.range i).any fun j => let e := addrLocal (t.elem j); decide (e ≤ a ∧ a < e + t.esize)

/-- The cells of a write request that reach memory: where the stream names a byte again, which of the values it holds is not
defined (R160). -/
def Stream.lasting (t : Stream) (first : Nat) (cells : List (Nat × Byte)) : List (Nat × Byte) :=
  (cells.zipIdx.filter fun x =>
    !(t.named (first + x.2 / t.esize) x.1.1 && Config.keepsEarlier t.id (first * t.esize + x.2))).map Prod.fst

/-- The value a list of cells gives an address: the last one written. -/
def cellAt (cells : List (Nat × Byte)) (a : Nat) : Option Byte := (cells.reverse.find? fun c => c.1 == a).map Prod.snd

/-- The lowest address that cells name. -/
def lowest (cells : List (Nat × Byte)) : Nat := cells.foldl (fun m c => min m c.1) ((cells.map Prod.fst).headD 0)

/-- The bytes of cells from their lowest address on, where those that they name are one contiguous run, in whatever order they
are named (R298). -/
def contiguous (cells : List (Nat × Byte)) : Option (List Byte) :=
  ((List.range (cells.map Prod.fst).eraseDups.length).map fun i => cellAt cells (lowest cells + i)).foldr
    (fun b bs => b.bind fun b => bs.map fun bs => b :: bs) (some [])

/-- The masked WRITE payload of one 2 KiB half: 32 masks of 8 B, then the half's bytes (R298). -/
def maskedHalf (cells : List (Nat × Byte)) (half : Nat) : List Byte :=
  let mask := (List.range 32).flatMap fun j =>
    leBytes 8 (((List.range 64).map fun i => if (cellAt cells (half + 64 * j + i)).isSome then 2 ^ i else 0).sum)
  mask ++ (List.range 2048).map fun i => (cellAt cells (half + i)).getD 0

/-- The WRITE packets of a remote write whose bytes are named by cells, of which those kept reach memory (R297, R298). -/
def State.writePackets (s : State) (n : Core) (t : Stream) (r : Req) (cells kept : List (Nat × Byte)) : List Packet :=
  let dst := addrCoord t.base.toNat
  match contiguous kept with
  | some (b :: bs) =>
    let bs := b :: bs
    [s.packet dst 0 1 0 (BitVec.ofNat 48 (lowest kept)) (reqCtx n r.tag r.uc false) (bs.length - 1) bs]
  | _ =>
    let g := (cells.map Prod.fst).headD 0 / 4096 * 4096
    ([g, g + 2048].filter fun h => cells.any fun c => h ≤ c.1 && c.1 < h + 2048).map fun h =>
      s.packet dst 0 1 0 (BitVec.ofNat 48 h) (reqCtx n r.tag r.uc true) 2303 (maskedHalf kept h)

/-- A write stream takes bytes of its ring's head slot with a tag, a block and its pool's turn, and sends the write; a failed stream goes
on taking its slots and discards them (R159, R164, R298). Local bytes reach memory as they are sent. -/
def State.slotTake (s : State) (n : Core) (t : Fin 16) (e : Ecc) : State :=
    let c := s.core n
    let x := c.arch.stOf t
    let g := c.arch.ringOf x.ring
    let inHead := (g.slot g.head).cnt - g.rpos
    let limit := max x.esize inHead
    if !(s.fastOn && x.active && x.writes && x.next < x.total && !c.stopAt x.id && g.avail ≥ x.esize) then s
    else
      let k := reqLen x x.next limit 0 4096
      let failed := x.broken || s.remoteFenced x
      if failed then
        (s.ringDrop n x.ring (k * x.esize) 17).modStream n t fun x =>
          let x := { x with next := x.next + k }
          if s.remoteFenced x && !x.broken then x.fail .fenced else x
      else
        match c.freeTag x with
        | none => s
        | some tag =>
          let (wl, blk) := s.welt.claim x.cls (blockFor n t)
          if blk.isNone then { s with welt := wl }
          else if !s.turnOf n t then s
          else
            let s := { s with welt := wl }
            let s := match e with
              | .clean => s
              | .symbols _ => s
              | .words _ => s.wordErrors false ((g.nextWords (k * x.esize)).map (Loc.scratch n)) e
              | e => (s.readScratch n (g.slotOff g.head + g.rpos) 1 e).1
            let whole := s
            let (s, bs, bad) := s.ringTake n x.ring (k * x.esize) 17
            let s := if bad then whole.ringDrop n x.ring (k * x.esize) 17 else s
            let s := s.modStream n t fun x => { x with next := x.next + k }
            let (s, fails) := s.stagingErrors e
            if bad || fails then
              (s.modStream n t fun x => x.fail .eccUncorrectable).giveBlock x.cls n.val (blk.getD false)
            else
              let cells := x.cells x.next bs
              let s := s.modCore n fun c => (c.takeTag tag t.val x.next).grantTo t
              let r : Req := s.accepted x { first := x.next, cnt := k, tag := tag, uc := vgetD (s.core n).tagUse tag 0, need := 1
                                            done := false, data := [], status := .ok, blk := blk }
              if x.remote && !s.selfRemote x then
                let ps := s.writePackets n x r cells (x.lasting x.next cells)
                (s.modStream n t fun x => { x with reqs := x.reqs ++ [{ r with need := ps.length }] }).sendAll ps
              else if !s.reachable x r then s.modStream n t fun x => { x with reqs := x.reqs ++ [r] }
              else if r.status != .ok then s.modStream n t fun x => { x with reqs := x.reqs ++ [r] }
              else
                let kept := x.lasting x.next cells
                let (s, part) := ((s.wakeAt (kept.map Prod.fst)).maskedErrors kept e).writeCells kept
                let st : Status := if part then .eccUncorrectable else .ok
                s.modStream n t fun x => { x with reqs := x.reqs ++ [{ r with status := st }] }

/-- A write request is acknowledged with a status: one packet fewer is awaited, and at the last the tag and the block
are released; an acknowledged request that succeeded needs no place in stream order any more (R159, R164, R298). -/
def State.ackWrite (s : State) (n : Core) (t : Fin 16) (first tag : Nat) (st : Status) : State :=
  let x := (s.core n).arch.stOf t
  match x.reqs.find? fun r => r.first == first with
  | none => s
  | some r =>
    let st := Status.orElse r.status st
    if r.need > 1 then
      s.modStream n t fun x =>
        { x with reqs := x.reqs.map fun q => if q.first == first then { q with need := q.need - 1, status := st } else q }
    else
      let s := s.answer n t first tag st []
      s.modStream n t fun x => { x with reqs := x.reqs.filter fun q => !(q.done && q.status == .ok) }

/-- A local write's acknowledgement lands and its tag is released; one of a unit that has been reset since is dropped (R159,
R277, R484). -/
def execWriteAcknowledge (n : Core) (tag : BitVec 7) (uc : BitVec 4) (s : State) :
    Host.Outcome State Fault Refusal :=
  .next <|
    match (s.core n).tagOf tag.toNat uc with
    | none => s
    | some (t, first) =>
      let x := (s.core n).arch.stOf t
      match x.reqs.find? fun r => r.first == first with
      | none => s
      | some r =>
        if !s.fastOn || !x.writes || (x.remote && !s.selfRemote x) || !s.reachable x r || (r.status != .refusedReset && !s.sameEpochs r.via)
        then s
        else (s.selfStep n x).ackWrite n t first tag.toNat .ok

/-- A request gets no reply within its time limit and is abandoned with TIMEOUT; its tag is released, its block too unless
it is a local read's, and what of it still waits under inject_stop ends (R163, R230, R314). -/
def execRequestTimeLimit (n : Core) (tag : BitVec 7) (s : State) : Host.Outcome State Fault Refusal :=
  .next <|
    match (s.core n).tags.find? fun x => x.1 == tag.toNat with
    | none => s
    | some (_, t, first) =>
      let t : Fin 16 := Fin.ofNat 16 t
      if !s.fastOn then s
      else (s.answer n t first tag.toNat .timeout []).endWaiting (isRequest n tag.toNat)

/-! ### Completion -/

/-- The status with which a stream ends: the first failure in stream order, a failure of its own, the failure of the
ring it consumes, ABORTED where it was stopped, or ECC_UNCORRECTABLE for a poisoned word written in part (R67, R150, R164,
R518). -/
def CoreSt.streamStatus (c : CoreSt) (t : Stream) : Status :=
  match t.reqs.find? fun r => r.done && r.status != .ok with
  | some r => r.status
  | none =>
    match t.failed with
    | some st => st
    | none =>
      if t.next < t.total || (!t.writes && !t.reqs.isEmpty) then
        match (if t.writes then (c.arch.ringOf t.ring).broken t.esize else none) with
        | some st => st
        | none => .aborted
      else if t.soft then .eccUncorrectable
      else .ok

/-- Whether a stream has nothing left to wait for: no request is outstanding, and it has delivered or sent all, has
failed, or is stopped (R67, R154, R164). -/
def CoreSt.streamEnded (c : CoreSt) (t : Stream) : Bool :=
  let stop := c.stopAt t.id
  t.reqs.all Req.done &&
    if t.writes then
      t.next ≥ t.total || stop || ((c.arch.ringOf t.ring).broken t.esize).isSome
    else
      stop || (match t.reqs with
        | [] => t.next ≥ t.total || t.failed.isSome
        | r :: _ => r.status != .ok)

/-- A stream ends: the blocks that its requests still hold go back, and it waits for none (R227, R230). -/
def State.giveReqs (s : State) (n : Core) (t : Fin 16) (x : Stream) : State :=
  let s := x.reqs.foldl (fun (s : State) r => s.giveReq n x r) s
  { s with welt := s.welt.withdraw x.cls fun q => q == blockFor n t }

/-- The stream of register t completes and signals (R154, R164). -/
def State.streamDone (s : State) (n : Core) (t : Fin 16) : State :=
    let c := s.core n
    let x := c.arch.stOf t
    match c.stq.running.find? fun y => y.e.id == x.id with
    | none => s
    | some y =>
      if !(s.fastOn && x.active && c.streamEnded x) then s
      else
        let st := c.streamStatus x
        let s := s.modCore n fun c =>
          { c with stq := { c.stq with running := c.stq.running.filter fun z => z.e.id != x.id } }
        let s := s.modStream n t fun x => { x with active := false, reqs := [], failed := none }
        let s := (s.modArch n fun a => a.release x.id st).giveReqs n t x
        s.complete n y.e st

/-! ### Issue -/

/-- ST.RING ring, sa: the configuration word is checked at issue (R144, R190, R204). -/
def execStRing (n : Core) (w : BitVec 48) (s : State) : Host.Outcome State Fault Refusal :=
  let v := (s.core n).arch.sreg (bitsOf w 43 38)
  let k := bitsOf v 4 0
  let ok := bitsOf v 63 23 == 0 && bitsOf v 11 5 == 0 && 3 ≤ k && k ≤ 16 && bitsOf v 22 12 + k ≤ 2048
  .next (s.issueEngine n .st .stRing w (bitsOf w 43 38) 0 0 (firstFail [(tailOk w && clear w 37 21 && ok, cResv)]))

/-- ST.DESC st, sa (R151, R204). -/
def execStDesc (n : Core) (w : BitVec 48) (s : State) : Host.Outcome State Fault Refusal :=
  .next (s.issueEngine n .st .stDesc w (bitsOf w 43 38) 0 0 (firstFail [(tailOk w && clear w 37 21, cResv)]))

/-- ST.GO st, sk (R153, R204). -/
def execStGo (n : Core) (w : BitVec 48) (s : State) : Host.Outcome State Fault Refusal :=
  .next (s.issueEngine n .st .stGo w (bitsOf w 43 38) 0 0 (firstFail [(tailOk w && clear w 37 21, cResv)]))

/-- The ring or stream register that an ST instruction names (R204). -/
def stNum (w : BitVec 48) : Fin 16 := Fin.ofNat 16 (bitsOf w 47 44)

/-- Whether an ST. instruction at the head of its queue may start: ST.RING with its ring empty and unused, ST.DESC and
ST.GO with the stream inactive, ST.GO with no other producer or consumer on its ring (R145, R148, R151, R153). -/
def CoreSt.stMayStart (c : CoreSt) (e : QEntry) : Bool :=
  let t := c.arch.stOf (stNum e.w)
  match e.op with
  | .stRing => (c.arch.ringOf (stNum e.w).val).idle
  | .stDesc => !t.active
  | .stGo =>
    let g := c.arch.ringOf t.ring
    !t.active && (if t.writes then g.cons.isNone else g.prod.isNone)
  | _ => false

/-- ST.RING starts and completes: the ring takes its new base and slot count, all slots EMPTY, nothing failed (R144,
R145, R150). -/
def State.startRing (s : State) (n : Core) (e : QEntry) : State :=
  let k := bitsOf e.a 4 0
  let r : Ring := { base := BitVec.ofNat 11 (bitsOf e.a 22 12), nslots := BitVec.ofNat 5 k
                    slots := List.replicate k Slot.reset, head := 0, tail := 0, rpos := 0, failed := none, prod := none
                    cons := none }
  (s.modArch n fun a => a.setRing (stNum e.w).val r).complete n e .ok

/-- ST.DESC starts: the offset is checked, and the descriptor loads, or the instruction completes with
ECC_UNCORRECTABLE where it fails its code (R151, R168, R518, R519). -/
def State.startDesc (s : State) (n : Core) (e : QEntry) (x : Ecc) : State :=
  let o := e.a.toNat
  match firstFail [(o % 16 == 0, cAlign), (o + 96 ≤ scratchSize, cSpace)] with
  | some c => s.coreFault n c e.pc
  | none =>
    let (s, st, bs) := s.readDesc n e.id o 96 x
    if st = .ok then (s.modStream n (stNum e.w) fun _ => Stream.load bs).complete n e .ok else s.complete n e st

/-- ST.GO starts: its checks, then the stream is active and holds its ring (R148, R153). -/
def State.startGo (s : State) (n : Core) (e : QEntry) (hw : HwFault) : State :=
  let t := stNum e.w
  let x := { (s.core n).arch.stOf t with off := e.a }
  match s.goCheck n x with
  | some c => s.coreFault n c e.pc
  | none =>
    let s := s.modStream n t fun _ => { x with active := true, id := e.id, next := 0, reqs := [], failed := none, soft := false }
    let s := s.modArch n fun a => if x.writes then a.consume x.ring e.id else a.produce x.ring e.id
    s.modCore n fun c =>
      { c with stq := { c.stq with running := c.stq.running ++
          [{ e := e, hw := hw, g := Progress.zero, status := none }] } }

end Sys2Proof.Machine
end

