-- ==== Sys2Proof/Machine/Matrix.lean ====
section
/-! DEFINITION. The matrix engine (R83 to R112, R206 to R210): tile loads, passes with their feeder, recompute, emit and
row statistics, and the running of the engine row by row. A load or pass goes on as far as its rings allow; the next one
goes on after it. -/

namespace Sys2Proof.Machine

/-! ### Running an engine instruction -/

/-- Retire a started instruction: it leaves its queue, its rings are released, and it completes with its final status
(R61, R81, R148, R150). -/
def State.retire (s : State) (n : Core) (q : QueueId) (x : RunEntry) (st : Status) : State :=
  let st := (s.core n).endStatus x.g st
  let s := s.modCore n fun c =>
    let k := c.queue q
    c.setQueue q { k with running := k.running.filter fun y => y.e.id != x.e.id }
  (s.modArch n fun a => a.release x.e.id st).finish n x.e x.g st

/-- Take up to m bytes from a ring for a started instruction of queue q, after the code has checked the words read. toEos:
stop after the end-marked slot (R147, R149, R518). The answer holds the bytes, whether a poisoned word was met and whether
the stream's end was reached. -/
def State.feed (s : State) (n : Core) (q : QueueId) (x : RunEntry) (ring m : Nat) (toEos : Bool) :
    State × List Byte × Bool × Bool :=
  let r := (s.core n).arch.ringOf ring
  let k := if toEos then (match r.toEnd with
    | some k => min k m
    | none => m) else m
  let ended := toEos && m != 0 && r.toEnd == some k
  let (s, errs) := s.ringErrors n ring k x.hw.ring
  let s := if x.hw.ring.isEmpty then s
    else s.modCore n fun c => c.modRun q x.e.id fun y => { y with hw := { y.hw with ring := errs } }
  let (s, bs, bad) := s.ringTake n ring k 17
  (s, bs, bad, ended)

/-- Element encodings of a byte string of b-byte elements. -/
def splitElems (b : Nat) (bs : List Byte) (count : Nat) : List Nat := (List.range count).map fun j => natAt bs (b * j) b

/-- The V4 elements of 8 scale bytes and 128 element bytes, each as element + 16 × scale (R102, R130). -/
def splitV4 (bs : List Byte) : List Nat :=
  (List.range 256).map fun j => natAt bs (8 + j / 2) 1 / 16 ^ (j % 2) % 16 + 16 * natAt bs (j / 32) 1

/-! ### MX.LOAD -/

/-- MX.LOAD bank, ring, sfmt, afmt, usta, sa (R87, R206). -/
def execMxLoad (n : Core) (w : BitVec 48) (s : State) : Host.Outcome State Fault Refusal :=
  let v := (s.core n).arch.sreg (bitsOf w 33 28)
  let sf := bitsOf w 42 39
  let pr := pairOf sf sf (bitsOf w 38 35)
  let fits := match pr with
    | some (l, _) => bitsOf v 17 8 ≤ 256 * l
    | none => true
  let ok := tailOk w && clear w 27 21 && (!bitOf w 34 || sf == 7) && bitsOf v 63 18 == 0 && fits
  .next (s.issueEngine n .mx .mxLoad w (bitsOf w 33 28) 0 0 (firstFail [(ok, cResv), (pr.isSome, cFmt)]))

/-- Tile bank of an instruction. -/
def CoreArch.bankOf (a : CoreArch) (b : Bool) : Bank := if b then a.bank[1] else a.bank[0]

/-- Change a tile bank. -/
def CoreArch.modBank (a : CoreArch) (b : Bool) (f : Bank → Bank) : CoreArch :=
  { a with bank := vmod a.bank (if b then 1 else 0) f }

/-- The bank that a load marks: its pair, K, N and signedness (R86, R87). -/
def loadBank (e : QEntry) : Bank :=
  let sf := bitsOf e.w 42 39
  let af := bitsOf e.w 38 35
  let l := match pairOf sf sf af with
    | some (l, _) => l
    | none => 1
  let k := bitsOf e.a 7 0
  let n := bitsOf e.a 17 8
  { Bank.reset with loaded := true, sfmt := BitVec.ofNat 4 sf, afmt := BitVec.ofNat 4 af, usta := bitOf e.w 34
                    k := if k = 0 then 256 else k, n := if n = 0 then 256 * l else n }

/-- A load starts: its bank is marked loaded and its ring is consumed (R86, R148). -/
def State.startMxLoad (s : State) (n : Core) (e : QEntry) (hw : HwFault) : State :=
  let s := s.modArch n fun a => (a.modBank (bitOf e.w 47) fun _ => loadBank e).consume (bitsOf e.w 46 43) e.id
  s.addRun n .mx e hw Progress.zero

/-- Rows of the row bus that a tile takes: its element rows and, for V4, a scale row before each 32 (R87). -/
def Bank.busRows (b : Bank) : Nat := if b.sfmt == 3 then b.k + (b.k + 31) / 32 else b.k

/-- Bytes of bus row u (R87). -/
def Bank.busBytes (b : Bank) (u : Nat) : Nat :=
  if b.sfmt == 3 then (if u % 33 = 0 then b.n else (b.n + 1) / 2)
  else b.n * (if b.sfmt == 0 then 2 else 1)

/-- Keep the entries that are not the default: the canonical part of a rising list of entries. -/
def nonDefault {α : Type} [DecidableEq α] (d : α) (xs : List (Nat × α)) : SMap α := xs.filter fun x => x.2 ≠ d

/-- Write bus row u into a bank: rows come in rising order (R87). -/
def Bank.setRow (b : Bank) (u : Nat) (bs : List Byte) : Bank :=
  if b.sfmt == 3 then
    let g := u / 33
    if u % 33 = 0 then
      { b with scales := b.scales ++ nonDefault 0 ((List.range b.n).map fun o => (g * 1024 + o, BitVec.ofNat 8 (natAt bs o 1))) }
    else
      let r := u - g - 1
      { b with elems := b.elems ++ nonDefault 0 ((List.range b.n).map fun o =>
          (r * 1024 + o, BitVec.ofNat 16 (natAt bs (o / 2) 1 / 16 ^ (o % 2) % 16))) }
  else
    let z := if b.sfmt == 0 then 2 else 1
    { b with elems := b.elems ++ nonDefault 0 ((List.range b.n).map fun o =>
        (u * 1024 + o, BitVec.ofNat 16 (natAt bs (z * o) z))) }

/-- A load that cannot finish completes with a status. Its bank stays loaded; what the rows hold that it did not write the
spec does not say, and they are free values (R86, R112, R150, log 31). -/
def State.failLoad (s : State) (n : Core) (x : RunEntry) (st : Status) : State :=
  let bk := bitOf x.e.w 47
  let b := (s.core n).arch.bankOf bk
  let (i, s) := s.freshN (b.busRows * 1024)
  let b := ((List.range b.busRows).drop x.g.row).foldl (fun b u => b.setRow u (freeBytes (i + 1024 * u) (b.busBytes u))) b
  (s.modArch n fun a => a.modBank bk fun _ => b).retire n .mx x st

/-- A load takes one bus row, or what its ring holds of it; after its last row it completes. It fails where it needs a byte
that a failed ring does not hold, or meets a poisoned word (R87, R112, R150). -/
def State.loadStep (s : State) (n : Core) (x : RunEntry) : Option State :=
  let bk := bitOf x.e.w 47
  let ring := bitsOf x.e.w 46 43
  let b := (s.core n).arch.bankOf bk
  let need := b.busBytes x.g.row
  let r := (s.core n).arch.ringOf ring
  if r.avail = 0 then r.failed.map (s.failLoad n x)
  else
    let (s, bs, bad, _) := s.feed n .mx x ring (need - x.g.got.length) false
    let bs := x.g.got ++ bs
    if bad then some (s.failLoad n x .eccUncorrectable)
    else if bs.length < need then some (s.modRun n .mx x.e.id fun g => { g with got := bs })
    else
      let s := s.modArch n fun a => a.modBank bk fun b => b.setRow x.g.row bs
      if x.g.row + 1 ≥ b.busRows then some (s.retire n .mx x .ok)
      else some (s.modRun n .mx x.e.id fun g => { g with row := g.row + 1, got := [] })

/-! ### MX.PASS, MX.AG, MX.RS at issue -/

/-- The reserved fields of a pass and of its control words (R89, R207 to R209). -/
def passResv (w : BitVec 48) (a b : Word) : Bool :=
  tailOk w && clear w 23 21 && bitsOf a 17 16 != 3 && (bitOf a 5 || bitsOf a 4 1 == 0) &&
    (!bitOf a 0 || !bitOf a 5 || bitsOf a 4 1 == 7) && bitsOf b 12 0 == 0

/-- The formats and rounding codes of a pass that are known at issue: no code is reserved, used or not, and rows are not
emitted in V4 (R25, R41, R85, R100). -/
def passFmt (w : BitVec 48) (a b : Word) : Bool :=
  (!bitOf a 5 || (Fmt.ofCode (bitsOf a 4 1)).isSome) && (Fmt.ofCode (bitsOf b 18 15)).isSome && bitsOf b 14 13 != 3 &&
    (!passEmits w b || bitsOf b 18 15 != 3)

/-- Whether the feed offset, where a feed is named, is a multiple of 8 (R102). -/
def feedAligned (b : Word) : Bool := !bitOf b 47 || bitsOf b 46 24 % 8 == 0

/-- Issue of a pass of a given kind with its own conditions (R207). -/
def State.issuePass (s : State) (n : Core) (w : BitVec 48) (op : EngOp) (ok : Word → Word → Bool) : State :=
  let a := (s.core n).arch.sreg (bitsOf w 41 36)
  let b := (s.core n).arch.sreg (bitsOf w 35 30)
  s.issueEngine n .mx op w (bitsOf w 41 36) (bitsOf w 35 30) (bitsOf w 29 24)
    (firstFail [(passResv w a b && ok a b, cResv), (passFmt w a b, cFmt), (feedAligned b, cAlign)])

/-- MX.PASS (R89, R207). -/
def execMxPass (n : Core) (w : BitVec 48) (s : State) : Host.Outcome State Fault Refusal :=
  .next (s.issuePass n w .mxPass fun _ _ => clear w 29 24)

/-- MX.AG: fmt_ovr must be 1 (R207, R218). -/
def execMxAg (n : Core) (w : BitVec 48) (s : State) : Host.Outcome State Fault Refusal :=
  .next (s.issuePass n w .mxAg fun a _ => bitOf a 5)

/-- MX.RS: final must be 1, rows not 0, and emit, ering and efmt zero (R207, R219). -/
def execMxRs (n : Core) (w : BitVec 48) (s : State) : Host.Outcome State Fault Refusal :=
  .next (s.issuePass n w .mxRs fun a b => bitOf w 42 && bitsOf a 62 47 != 0 && bitsOf b 23 15 == 0)

/-- MX.RSTAT ring, first, count (R104, R210). -/
def execMxRstat (n : Core) (w : BitVec 48) (s : State) : Host.Outcome State Fault Refusal :=
  .next (s.issueEngine n .mx .mxRstat w 0 0 0 (firstFail [(tailOk w && clear w 23 21, cResv)]))

/-! ### A pass starts -/

/-- The product a pass forms with its bank's record; none when the pair is not accepted (R85, R89, R208). -/
def CoreSt.passDot (c : CoreSt) (e : QEntry) : Option Dot :=
  let bk := c.arch.bankOf (bitOf e.a 63)
  let mf := if bitOf e.a 5 then bitsOf e.a 4 1 else bk.sfmt.toNat
  let um := if bitOf e.a 5 then bitOf e.a 0 else bk.usta
  match pairOf mf bk.sfmt.toNat bk.afmt.toNat with
  | none => none
  | some (_, win) =>
    some { mf := mf, sf := bk.sfmt.toNat, af := bk.afmt.toNat, um := um, us := bk.usta, k := bk.k, n := bk.n, win := win
           ceil := ceilingOf e.a mf bk.sfmt.toNat (um && bk.usta), neg := bitOf e.a 19
           pexp := signedField 6 (bitsOf e.a 36 31), tid := BitVec.ofNat 16 (bitsOf e.b 63 48)
           hrow := bitsOf e.a 46 37, start := bitOf e.w 43
           careful := match c.region with
             | some g => g.careful
             | none => false }

/-- The entries of a feed descriptor (R102). -/
def feedEntries (desc : List Byte) : List Nat :=
  if desc.isEmpty then []
  else (List.range (natAt desc 0 8 % 8 + 1)).map fun j => natAt desc (8 + 8 * j) 8

/-- The reserved bits of a feed descriptor (R102). -/
def feedResv (desc : List Byte) : Bool :=
  natAt desc 0 8 < 8 && (feedEntries desc).all fun v => v / 256 % 2 ^ 24 == 0 && v / 4 % 4 == 0

/-- A pass starts: the checks of its bank, formats and feed descriptor, then it consumes its moving ring and produces
into its emit ring. It keeps the product that its bank now gives (R85, R90, R102, R148, R208, R519). -/
def State.startPass (s : State) (n : Core) (e : QEntry) (hw : HwFault) : State :=
  let c := s.core n
  let bk := c.arch.bankOf (bitOf e.a 63)
  let mf := if bitOf e.a 5 then bitsOf e.a 4 1 else bk.sfmt.toNat
  let off := bitsOf e.b 46 24
  let en := bitOf e.b 47
  let (t, st, head) := s.readDesc n e.id off (if en && off + 8 ≤ scratchSize then 8 else 0) hw.descEcc
  let len := 8 + 8 * (natAt head 0 8 % 8 + 1)
  let (t2, st2, desc) := t.readDesc n e.id off (if en && off + len ≤ scratchSize then len else 0) .clean
  let unread := st != .ok || st2 != .ok
  match firstFail [(bk.loaded, 0x07), (!bitOf e.a 0 || mf == 7, cResv), ((c.passDot e).isSome, cFmt),
      (!en || (off + 8 ≤ scratchSize && (unread || off + len ≤ scratchSize)), cSpace),
      (!en || unread || feedResv desc, cResv)] with
  | some k => s.coreFault n k e.pc
  | none =>
    let s := if en then t2 else s
    let s := s.modArch n fun a =>
      let a := a.consume (bitsOf e.w 47 44) e.id
      if passEmits e.w e.b && e.op != .mxRs then a.produce (bitsOf e.b 22 19) e.id else a
    let left := ((feedEntries desc).headD 0) / 2 ^ 48
    s.addRun n .mx e hw { Progress.zero with desc := if en then desc else [], fleft := left, dot := c.passDot e
                                             fail := if en && unread then some .eccUncorrectable else none }

/-! ### The feeder -/

/-- The next entry of a feed list with rows left, entries with count 0 skipped: its place and the rows it has left. fuel
counts entries looked at (R102). -/
def nextFeed (es : List Nat) (i left fuel : Nat) : Nat × Nat :=
  match fuel with
  | 0 => (i, left)
  | f + 1 =>
    if left != 0 then (i, left)
    else
      let j := if i + 1 < es.length then i + 1 else 0
      nextFeed es j (es.getD j 0 / 2 ^ 48) f

/-- What the feeder presents next (R102): operation, leading zeros, elements shifted out, whether zeros fill, history
row. -/
structure FeedOp where
  op : Nat
  z : Nat
  s : Nat
  fill : Bool
  h : Nat

/-- A shift or zero count as used: at most K, and for V4 without its low five bits (R102). -/
def feedCount (mf k x : Nat) : Nat := min k (if mf == 3 then x / 32 * 32 else x)

/-- The next feeder operation and the feed list's place after it (R102). -/
def Progress.plan (g : Progress) (mf k : Nat) : FeedOp × Nat × Nat :=
  let es := feedEntries g.desc
  if es.all fun v => v / 2 ^ 48 == 0 then ({ op := 0, z := 0, s := 0, fill := false, h := 0 }, 0, 0)
  else
    let (i, left) := nextFeed es g.fent g.fleft 9
    let v := es.getD i 0
    ({ op := v % 4, z := feedCount mf k (v / 2 ^ 32 % 256), s := feedCount mf k (v / 2 ^ 40 % 256)
       fill := v / 128 % 2 == 1, h := v / 16 % 8 }, i, left - 1)

/-- Elements an operation takes from the ring (R102). -/
def FeedOp.takes (p : FeedOp) (k : Nat) : Nat :=
  if p.op = 0 then k - p.z else if p.op = 1 && !p.fill then p.s else 0

/-- Bytes that hold count elements: V4 elements come in groups of 8 scale bytes and 128 element bytes (R102). -/
def moveBytes (mf count : Nat) : Nat := if mf == 3 then 136 * ((count + 255) / 256) else count * (if mf == 0 then 2 else 1)

/-- The elements that bytes of a moving stream hold, the last group of which may be cut short (R102, R149). -/
def moveElems (mf : Nat) (bs : List Byte) : List Nat :=
  if mf == 3 then
    ((List.range ((bs.length + 135) / 136)).flatMap fun j => splitV4 ((bs.drop (136 * j)).take 136)).take
      (bs.length / 136 * 256 + 2 * (bs.length % 136 - 8))
  else
    let z := if mf == 0 then 2 else 1
    splitElems z bs ((bs.length + z - 1) / z)

/-- The row an operation presents, with the elements it takes from the ring, missing ones being zero (R102, R149). -/
def FeedOp.row (p : FeedOp) (k : Nat) (hist : List (List Nat)) (els : List Nat) : List Nat :=
  let m := p.takes k
  let els := els.take m ++ List.replicate (m - els.length) 0
  let old := hist.getD p.h (List.replicate k 0)
  match p.op with
  | 0 => List.replicate p.z 0 ++ els
  | 1 => old.drop p.s ++ (if p.fill then List.replicate p.s 0 else els)
  | 2 => old
  | _ => List.replicate k 0

/-! ### A row of a pass -/

/-- The stationary element of tile row k and column o, as elemNum takes it (R86, R87). -/
def Bank.elem (b : Bank) (k o : Nat) : Nat :=
  (SMap.get 0 b.elems (k * 1024 + o)).toNat +
    (if b.sfmt == 3 then 16 * (SMap.get 0 b.scales (k / 32 * 1024 + o)).toNat else 0)

/-- The products of column o for a moving row (R83, R94). -/
def Dot.column (d : Dot) (b : Bank) (row : List Nat) (o : Nat) : List Num :=
  (List.range d.k).map fun k => d.product (row.getD k 0) (b.elem k o)

/-- The amounts by which the hardware puts the sum of a row and column off, first and when formed again. -/
def errAt (hw : HwFault) (i o : Nat) : Option Mismatch := hw.residue.find? fun m => m.row == i && m.col == o

/-- Form column sums of the newest row, in column order, as long as the recompute list has room: a mismatch is logged and
withholds its element (R91, R94, R107, R109). -/
def State.sumCols (s : State) (n : Core) (x : RunEntry) : State :=
  match x.g.dot, x.g.flight.getLast?, x.g.replay with
  | some d, some (i, sums), (_, row) :: _ =>
    let b := (s.core n).arch.bankOf (bitOf x.e.a 63)
    let new := ((List.range d.n).drop sums.length).foldl (fun (acc : List (Option ColSum) × List Nat) o =>
      if acc.2.length + x.g.recomp.length ≥ 32 then acc
      else
        let c := d.sum (((errAt x.hw i o).map Mismatch.err).getD 0) (d.column b row o)
        if c.miss then (acc.1 ++ [none], acc.2 ++ [o]) else (acc.1 ++ [some c.sum], acc.2)) (sums, [])
    let s := new.2.foldl (fun s o => s.mismatch n x.e i o 0) s
    s.modRun n .mx x.e.id fun g =>
      { g with flight := g.flight.dropLast ++ [(i, new.1)], recomp := g.recomp ++ new.2.map fun o => (i, o) }
  | _, _, _ => s

/-- Form the first sum of the recompute list again from the replay buffer: a match is added after all, a second mismatch
ends the pass with RESIDUE_FAULT and faults the core (R109). -/
def State.recompute (s : State) (n : Core) (x : RunEntry) : Option State :=
  match x.g.dot, x.g.recomp with
  | some d, (i, o) :: rest =>
    let b := (s.core n).arch.bankOf (bitOf x.e.a 63)
    let row := ((x.g.replay.find? fun y => y.1 == i).map Prod.snd).getD []
    let c := d.sum (((errAt x.hw i o).map Mismatch.again).getD 0) (d.column b row o)
    if c.miss then some ((s.endRun n .mx x.e.id .residueFault).coreFault n 0x0A x.e.pc)
    else some (s.modRun n .mx x.e.id fun g =>
      { g with recomp := rest
               flight := g.flight.map fun f => if f.1 == i then (i, f.2.set o (some c.sum)) else f })
  | _, _ => none

/-- A row enters the grid: it joins the replay buffer, whose newest 8 rows are the feeder's history, and its column sums
are formed (R91, R102, R109). -/
def State.presentRow (s : State) (n : Core) (x : RunEntry) (p : FeedOp) (fent fleft : Nat) (els : List Nat) (stop : Bool) :
    State :=
  match x.g.dot with
  | none => s
  | some d =>
    let i := x.g.row
    let row := p.row d.k (x.g.replay.map Prod.snd) els
    let f := fun (g : Progress) =>
      { g with row := i + 1, got := [], fent := fent, fleft := fleft, stop := stop, rest := els.drop (p.takes d.k)
               replay := (i, row) :: g.replay.take 511, flight := g.flight ++ [(i, [])] }
    (s.modRun n .mx x.e.id f).sumCols n { x with g := f x.g }

/-- A pass goes on at the feeder by one act: a sum is formed again or the newest row's sums are, or its next row takes what
the ring holds of it and enters; none where it waits. The first row waits for a FULL slot even if it takes nothing from it
(R90, R92, R102, R109, R149, R150). -/
def State.enterStep (s : State) (n : Core) (x : RunEntry) : Option State :=
  let g := x.g
  if !g.recomp.isEmpty then s.recompute n x
  else if !g.summed then some (s.sumCols n x)
  else
    match g.dot with
    | none => none
    | some d =>
      let toEnd := passRows x.e = 0
      let (p, fi, fl) := g.plan d.mf d.k
      let need := moveBytes d.mf (p.takes d.k - g.rest.length) - g.got.length
      let ring := bitsOf x.e.w 47 44
      let r := (s.core n).arch.ringOf ring
      if g.stop then some (s.presentRow n x p fi fl g.rest true)
      else if r.avail = 0 && (need != 0 || g.row = 0) then
        r.failed.map fun st => s.modRun n .mx x.e.id fun g => { g with fail := some st }
      else if need = 0 then some (s.presentRow n x p fi fl (g.rest ++ moveElems d.mf g.got) false)
      else
        let (s, bs, bad, atEnd) := s.feed n .mx x ring need toEnd
        let got := g.got ++ bs
        if bad then some (s.modRun n .mx x.e.id fun g => { g with fail := some .eccUncorrectable })
        else if bs.length < need && !atEnd then some (s.modRun n .mx x.e.id fun g => { g with got := got })
        else some (s.presentRow n x p fi fl (g.rest ++ moveElems d.mf got) atEnd)

/-- Whether the collective side of a fused instruction has ended. -/
def CoreSt.sideEnded (c : CoreSt) (id : Nat) : Bool := c.cl.running.any fun x => x.e.id == id && x.status.isSome

/-- Whether a finishing row has a place to go: an emit slot, or a reduce-scatter that has started and has a free slot,
which room tells; one that has ended takes every row and drops it (R92, R219). -/
def State.rowReady (s : State) (n : Core) (x : RunEntry) (room : Bool) : Bool :=
  if x.e.op == .mxRs then ((s.fusedColl n x.e.id).isSome && room) || (s.core n).sideEnded x.e.id
  else !passEmits x.e.w x.e.b || (s.core n).outReady (bitsOf x.e.b 22 19) x.g.out

/-- The oldest row in flight goes on by one act: heel adds, at most cut of them, and then it is finished; none where a sum
of it is missing or it has no place to go (R91, R92, R100, R219). -/
def State.finishStep (s : State) (n : Core) (x : RunEntry) (room : Bool) (cut : Nat) : Option State :=
  match x.g.dot, x.g.flight with
  | some d, (_, sums) :: _ =>
    if sums.length < d.n || sums.any Option.isNone then none
    else if x.g.adds < d.n then some (s.addCols n .mx x cut)
    else if s.rowReady n x room then some (s.finishRow n .mx x)
    else none
  | _, _ => none

/-- A pass fills an emit slot, or ends once its last row is finished and emitted; none where it does neither (R91, R92). -/
def State.outStep (s : State) (n : Core) (x : RunEntry) : Option State :=
  let last := x.g.noMore (passRows x.e) && x.g.summed && x.g.flight.isEmpty
  match s.flush n (bitsOf x.e.b 22 19) x.e.id x.g.out last with
  | some (s, out, bad) => some (s.modRun n .mx x.e.id fun g => { g with out := out, soft := g.soft || bad })
  | none => if last && x.g.out.isEmpty then some (s.endRun n .mx x.e.id (x.g.fail.getD .ok)) else none

/-- Whether a pass freezes the grid: its oldest row, or the last bytes it emits, have no place to go (R92). -/
def RunEntry.frozen (x : RunEntry) : Bool :=
  match x.g.flight with
  | (_, sums) :: _ => !sums.isEmpty && x.g.adds ≥ sums.length
  | [] => !x.g.out.isEmpty && x.g.noMore (passRows x.e)

/-! ### MX.RSTAT -/

/-- MX.RSTAT starts: it produces into its ring (R104). -/
def State.startRstat (s : State) (n : Core) (e : QEntry) (hw : HwFault) : State :=
  (s.modArch n fun a => a.produce (bitsOf e.w 47 44) e.id).addRun n .mx e hw Progress.zero

/-- MX.RSTAT writes one statistics row as maximum and sum, and completes after its last. DESIGN CHOICE: where first + count
passes row 1,023 it goes on at row 0, as R103 numbers rows (R104, log 120). -/
def State.rstatStep (s : State) (n : Core) (x : RunEntry) : Option State :=
  let ring := bitsOf x.e.w 47 44
  let k := bitsOf x.e.w 33 24
  let count := if k = 0 then 1024 else k
  let g := x.g
  match s.flush n ring x.e.id g.out (g.row ≥ count) with
  | some (s, out, bad) => some (s.modRun n .mx x.e.id fun g => { g with out := out, soft := g.soft || bad })
  | none =>
    if g.row ≥ count then (if g.out.isEmpty then some (s.retire n .mx x .ok) else none)
    else if !(s.core n).outReady ring g.out then none
    else
      let a := (s.core n).arch
      let i := (bitsOf x.e.w 43 34 + g.row) % 1024
      let out := g.out ++ leBytes 4 (SMap.get 0 a.statMax i).toNat ++ leBytes 4 (SMap.get 0 a.statSum i).toNat
      some ((s.claimTail n ring out).modRun n .mx x.e.id fun g => { g with row := g.row + 1, out := out })

/-! ### The engine -/

/-- The matrix engine goes on by one act: its first instruction that has not ended fills a slot, adds, finishes or ends,
and else the first that has not entered whole goes on at the bus or the feeder, unless the grid is frozen. late holds back
the adds of a pass whose hardware is slow, while fewer than 512 rows are in flight; room tells of a free slot of the
reduce-scatter; cut bounds the adds of the act (R58, R90 to R92). -/
def State.mxStep (s : State) (n : Core) (late room : Bool) (cut : Nat) : Option State :=
  let live := (s.core n).mx.running.filter fun x => x.status.isNone
  match live.head? with
  | none => none
  | some h =>
    match h.e.op with
    | .mxLoad => s.loadStep n h
    | .mxRstat => s.rstatStep n h
    | _ =>
      let rows := (live.map fun x => x.g.flight.length).sum
      let add := if late && h.hw.slow && rows < 512 then none else s.finishStep n h room cut
      let next := match live.find? fun x => !x.entered with
        | none => none
        | some t => if h.frozen || rows ≥ 512 then none else if t.e.op == .mxLoad then s.loadStep n t else s.enterStep n t
      (s.outStep n h).orElse fun _ => add.orElse fun _ => next

/-- Whether the MX instruction at the head of its queue may start: the one before it has entered its last row, the
rings it takes are free, and for MX.RSTAT every earlier pass has completed (R88, R90, R104, R148). -/
def CoreSt.mxMayStart (c : CoreSt) (e : QEntry) : Bool :=
  let free := c.mx.running.all RunEntry.entered
  match e.op with
  | .mxLoad => free && (c.arch.ringOf (bitsOf e.w 46 43)).cons.isNone
  | .mxRstat => c.mx.running.isEmpty && (c.arch.ringOf (bitsOf e.w 47 44)).prod.isNone
  | _ => free && (c.arch.ringOf (bitsOf e.w 47 44)).cons.isNone &&
      (!passEmits e.w e.b || e.op == .mxRs || (c.arch.ringOf (bitsOf e.b 22 19)).prod.isNone)

/-- An MX instruction starts. -/
def State.startMx (s : State) (n : Core) (e : QEntry) (hw : HwFault) : State :=
  match e.op with
  | .mxLoad => s.startMxLoad n e hw
  | .mxRstat => s.startRstat n e hw
  | _ => s.startPass n e hw

/-- A pass that has ended completes and signals (R91, R112). -/
def State.passDone (s : State) (n : Core) : State :=
  match (s.core n).mx.running.find? fun x => x.e.op == .mxPass && x.status.isSome with
  | none => s
  | some x => s.retire n .mx x (x.status.getD .ok)

end Sys2Proof.Machine
end

