-- ==== Sys2Proof/Machine/Shank.lean ====
section
/-! DEFINITION. The Shank path (R113 to R125, R211): MV.DOT holds its moving rows still and takes its weight tile from a
ring. -/

namespace Sys2Proof.Machine

/-- The pairs MV.DOT accepts: those of R114, none with INT8 or V4. -/
def shankPair (m st acc : Nat) : Option (Nat × Nat) := if m == 7 || m == 3 then none else pairOf m st acc

/-- MV.DOT (R113, R114, R211): an n above 256 L reports 0x03 (R114). -/
def execMvDot (n : Core) (w : BitVec 48) (s : State) : Host.Outcome State Fault Refusal :=
  let a := (s.core n).arch.sreg (bitsOf w 36 31)
  let b := (s.core n).arch.sreg (bitsOf w 30 25)
  let pr := shankPair (bitsOf a 11 8) (bitsOf a 15 12) (bitsOf a 19 16)
  let fits := match pr with
    | some (l, _) => bitsOf a 37 28 ≤ 256 * l
    | none => false
  let ok := tailOk w && clear w 24 21 && bitsOf a 7 0 == 0 && bitsOf b 63 37 == 0 && bitsOf b 19 0 == 0
  .next (s.issueEngine n .mv .mvDot w (bitsOf w 36 31) (bitsOf w 30 25) 0 (firstFail [(ok, cResv), (fits, cFmt)]))

/-- The product an MV.DOT forms; a window as its pair gives, never recomputed (R114, R120, R121). -/
def shankDot (e : QEntry) : Dot :=
  let mf := bitsOf e.a 11 8
  let sf := bitsOf e.a 15 12
  let af := bitsOf e.a 19 16
  let (l, win) := (shankPair mf sf af).getD (1, 64)
  let k := bitsOf e.a 27 20
  let n := bitsOf e.a 37 28
  { mf := mf, sf := sf, af := af, um := false, us := false, k := if k = 0 then 256 else k
    n := if n = 0 then 256 * l else n, win := win, ceil := ceilingOf e.b mf sf false, neg := bitOf e.w 37
    pexp := signedField 6 (bitsOf e.b 36 31), tid := BitVec.ofNat 16 (bitsOf e.a 63 48), hrow := bitsOf e.a 47 38
    start := bitOf e.w 38, careful := false }

/-- Moving rows of an MV.DOT. -/
def shankRows (e : QEntry) : Nat := bitsOf e.w 43 40 + 1

/-- MV.DOT starts: it copies its moving rows from the vector registers and consumes its weight ring (R115, R148). -/
def State.startShank (s : State) (n : Core) (e : QEntry) (hw : HwFault) : State :=
  let d := shankDot e
  let v := (s.core n).arch.v
  let r0 := if bitOf e.w 39 then 16 else 0
  let rows := (List.range (shankRows e)).map fun i => (List.range d.k).map fun k =>
    let x := (SMap.get 0 v ((r0 + i) * 256 + k)).toNat
    if d.mf == 0 then x % 65536 else x % 256
  (s.modArch n fun a => a.consume (bitsOf e.w 47 44) e.id).addRun n .mv e hw { Progress.zero with rows := rows }

/-- Bytes of an MV.DOT's weight tile (R116). -/
def shankBytes (e : QEntry) : Nat :=
  let d := shankDot e
  d.k * d.n * (if d.sf == 0 then 2 else 1)

/-- The products of moving row i and column o over the tile rows ks, with the weights ws taken so far (R116, R120). -/
def Progress.shankProducts (g : Progress) (d : Dot) (ws : List Nat) (i o : Nat) (ks : List Nat) : List Num :=
  let row := g.rows.getD i []
  ks.map fun k => d.product (row.getD k 0) (ws.getD (k * d.n + o) 0)

/-- The residue mismatches that the weights from to below upto meet as they enter: of tile row m.stage, moving row m.row and
column m.col. A sum that is NaN or infinite is not compared (R107, R122). -/
def RunEntry.shankHits (x : RunEntry) (d : Dot) (ws : List Nat) (old upto : Nat) : List Mismatch :=
  x.hw.residue.filter fun m =>
    let at_ := m.stage * d.n + m.col
    m.err % 7 != 0 && m.row < x.g.rows.length && m.col < d.n && old ≤ at_ && at_ < upto &&
      (x.g.shankProducts d ws m.row m.col (List.range (m.stage + 1))).all Num.isFin

/-- By how much the hardware leaves a sum off without the check seeing it: a sum that is formed again after a mismatch keeps
the error of that (R108, R122). -/
def RunEntry.shankErr (x : RunEntry) (i o : Nat) : Int :=
  ((x.hw.residue.filter fun m => m.row == i && m.col == o).map fun m => if m.err % 7 = 0 then m.err else m.again).sum

/-- The column sums of an MV.DOT from its whole weight tile, by moving row (R116, R118, R120, R121). -/
def RunEntry.shankSums (x : RunEntry) (d : Dot) (ws : List Nat) : List (Nat × List (Option ColSum)) :=
  (List.range x.g.rows.length).map fun i => (i, (List.range d.n).map fun o =>
    some (d.sum (x.shankErr i o) (x.g.shankProducts d ws i o (List.range d.k))).sum)

/-- An MV.DOT takes the weights its ring holds: mismatches act as their elements enter, a poisoned word or a ring that
failed ends it without an add, and its last element makes its sums ready; none where it waits (R117, R122, R123, R150). -/
def State.shankTake (s : State) (n : Core) (x : RunEntry) : Option State :=
  let d := shankDot x.e
  let z := if d.sf == 0 then 2 else 1
  let ring := bitsOf x.e.w 47 44
  let r := (s.core n).arch.ringOf ring
  if r.avail = 0 then r.failed.map fun st => s.endRun n .mv x.e.id st
  else
    let (s, bs, bad, _) := s.feed n .mv x ring (shankBytes x.e - x.g.got.length) false
    let got := x.g.got ++ bs
    let ws := splitElems z got (got.length / z)
    let hits := x.shankHits d ws (x.g.got.length / z) (got.length / z)
    let s := (hits.takeWhile fun m => !m.persists).foldl (fun s m => s.mismatch n x.e m.row m.col 0) s
    match hits.find? Mismatch.persists with
    | some m => some (((s.mismatch n x.e m.row m.col 0).endRun n .mv x.e.id .residueFault).coreFault n 0x0A x.e.pc)
    | none =>
      if bad then some (s.endRun n .mv x.e.id .eccUncorrectable)
      else if got.length < shankBytes x.e then some (s.modRun n .mv x.e.id fun g => { g with got := got })
      else some (s.modRun n .mv x.e.id fun g =>
        { g with got := [], stop := true, dot := some d, flight := x.shankSums d ws })

/-- An MV.DOT whose weights are taken makes heel adds, at most cut of them, or ends after its last (R118, R123). -/
def State.shankAdd (s : State) (n : Core) (x : RunEntry) (cut : Nat) : Option State :=
  match x.g.flight with
  | [] => if x.g.stop then some (s.endRun n .mv x.e.id (x.g.fail.getD .ok)) else none
  | (_, sums) :: _ => some (if x.g.adds < sums.length then s.addCols n .mv x cut else s.finishRow n .mv x)

/-- The Shank path goes on by one act: its oldest MV.DOT adds, or, two sets of column sums being there, the oldest of two
that lacks weights takes them; none where it waits. late holds back the adds of one whose hardware is slow; cut bounds the
adds of the act (R117 to R119, R124). -/
def State.shankStep (s : State) (n : Core) (late : Bool) (cut : Nat) : Option State :=
  let live := (s.core n).mv.running.filter fun x => x.status.isNone
  match live.head? with
  | none => none
  | some h =>
    let add := if late && h.hw.slow then none else s.shankAdd n h cut
    add.orElse fun _ =>
      match (live.take 2).find? fun x => !x.g.stop with
      | none => none
      | some t => s.shankTake n t

/-- Whether the MV instruction at the head of its queue may start: the one before it has taken its last element, and
its ring has no other consumer (R119, R148). -/
def CoreSt.mvMayStart (c : CoreSt) (e : QEntry) : Bool :=
  (c.mv.running.all fun x => x.status.isSome || x.g.stop) && (c.arch.ringOf (bitsOf e.w 47 44)).cons.isNone

/-- An MV.DOT that has ended completes and signals (R118, R125). -/
def State.shankDone (s : State) (n : Core) : State :=
  match (s.core n).mv.running.find? fun x => x.status.isSome with
  | none => s
  | some x => s.retire n .mv x (x.status.getD .ok)

end Sys2Proof.Machine
end

