-- ==== Sys2Proof/Machine/Special.lean ====
section
/-! DEFINITION. How far the special functions of the vector engine may be from the exact result (R140): the exact result to
some 300 binary places beyond an F32 word, and the values within its bound. Real numbers stand here as integers in units of
2^−400. -/

namespace Sys2Proof.Machine

/-- One, in units of 2^−400. -/
def fixOne : Int := 2 ^ 400

/-- The product of two fixed-point numbers. -/
def fixMul (a b : Int) : Int := a * b / fixOne

/-- The quotient of two fixed-point numbers. -/
def fixDiv (a b : Int) : Int := a * fixOne / b

/-- The value of a number, and 0 for what is not finite. -/
def fixOf (x : Num) : Int :=
  match x with
  | .fin n m e =>
    let z : Int := if e + 400 < 0 then 0 else (m * 2 ^ (e + 400).toNat : Nat)
    if n then -z else z
  | _ => 0

/-- e^x for x from −110 to 110: the series at x ÷ 256, squared eight times. -/
def fixExp (x : Int) : Int :=
  let z := x / 256
  let y := ((List.range 80).foldl (fun (r : Int × Int) (k : Nat) => (r.1 + r.2, fixMul r.2 z / (k + 1))) (0, fixOne)).1
  (List.range 8).foldl (fun y _ => fixMul y y) y

/-- The inverse hyperbolic tangent of z, for z to 1/3. -/
def fixAtanh (z : Int) : Int :=
  let q := fixMul z z
  ((List.range 140).foldl (fun (r : Int × Int) (k : Nat) => (r.1 + r.2 / (2 * k + 1), fixMul r.2 q)) (0, z)).1

/-- The natural logarithm of m × 2^e. -/
def fixLog (m : Nat) (e : Int) : Int :=
  let k := Nat.log2 m
  let f := (m * 2 ^ 400 : Nat) / 2 ^ k
  let high := 4 * 2 ^ 400 ≤ 3 * f
  let g : Int := if high then f / 2 else f
  let n : Int := k + e + (if high then 1 else 0)
  n * (2 * fixAtanh (fixOne / 3)) + 2 * fixAtanh (fixDiv (g - fixOne) (g + fixOne))

/-- The whole part of the square root of n below 2^500. -/
def intSqrt (n : Nat) : Nat :=
  (List.range 500).foldl (fun r k => if (r + 2 ^ (499 - k)) ^ 2 ≤ n then r + 2 ^ (499 - k) else r) 0

/-- The hyperbolic tangent; past ±32 it differs from that of ±32 by less than 2^−90. -/
def fixTanh (x : Int) : Int :=
  let y := max (-32 * fixOne) (min (32 * fixOne) x)
  let t := fixExp (2 * y)
  fixDiv (t - fixOne) (t + fixOne)

/-- 2 ÷ √π. -/
def fixTwoOverRootPi : Int :=
  2913756966668194800300214067270034030186276855045544562015353861004409627435460814446341471088463227900768995815277951550

/-- The error function; past ±8 it differs from that of ±8 by less than 2^−95. -/
def fixErf (x : Int) : Int :=
  let y := max (-8 * fixOne) (min (8 * fixOne) x)
  let q := fixMul y y
  let s := ((List.range 420).foldl (fun (r : Int × Int) (k : Nat) =>
    (r.1 + r.2 / (2 * k + 1), -(fixMul r.2 q) / (k + 1))) (0, y)).1
  fixMul fixTwoOverRootPi s

/-- The exact result of a special function for a finite operand that is none of its special cases (R133, R140). -/
def fixSpecial (op : Nat) (x : Num) : Int :=
  let z := fixOf x
  match op with
  | 0x10 => fixExp (max (-110 * fixOne) (min (110 * fixOne) z))
  | 0x11 =>
    match x with
    | .fin _ m e => fixLog m e
    | _ => 0
  | 0x12 => (intSqrt ((2 ^ 1200 : Nat) / z.natAbs) : Nat)
  | 0x13 => fixTanh z
  | 0x14 => fixErf z
  | _ => fixDiv fixOne z

/-- The bound of a special function in ulp (R140). -/
def specialBound (op : Nat) : Nat := if op == 0x13 || op == 0x14 then 2 else 1

/-- One ulp of F32 at a result. -/
def fixUlp (z : Int) : Int := 2 ^ (max (Nat.log2 z.natAbs) 274 - 23)

/-- Whether a result is within the bound of a special function: a finite one by its error, which EXP does not let fall below
zero, and an infinity where the bound reaches past the largest F32 value (R140). -/
def specialWithin (op : Nat) (x : Num) (y : BitVec 32) : Bool :=
  let z := fixSpecial op x
  let d := specialBound op * fixUlp z
  match f32 y with
  | .nan => false
  | .inf n => op != 0x10 && decide (z < 0) == n && decide (2 ^ 528 ≤ z.natAbs + d)
  | .fin n _ _ => decide ((fixOf (f32 y) - z).natAbs ≤ d) && !(op == 0x10 && n)

/-- The result of a special function for a finite operand that is none of its special cases: a free value, which is the
table's where it is within the bound, and otherwise the exact result rounded (R140, log 36). -/
def specialValue (op : Nat) (a : BitVec 32) : BitVec 32 :=
  let y := Config.special op a
  if specialWithin op (f32 a) y then y
  else
    let z := fixSpecial op (f32 a)
    (toF32 .rne (.fin (decide (z < 0)) z.natAbs (-400))).1

end Sys2Proof.Machine
end

