-- ==== Sys2Proof/Machine/VectorOps.lean ====
section
/-! DEFINITION. Arithmetic of the vector engine's lanes (R126, R130, R133, R136, R140): stage operations, special
functions, the V4 beat, and the reduction tree. -/

namespace Sys2Proof.Machine

/-- The 256 lanes of a register or beat (R126). -/
abbrev Lanes := Vector (BitVec 32) 256

/-- Lanes from a function of the lane number. -/
def lanesOf (f : Nat → BitVec 32) : Lanes := Vector.ofFn fun i => f i.val

/-- Lane k. -/
def laneAt (x : Lanes) (k : Nat) : BitVec 32 := vgetD x k 0

/-- Vector register r of a core (R52). -/
def CoreArch.vreg (a : CoreArch) (r : Nat) : Lanes := lanesOf fun k => SMap.get 0 a.v (r * 256 + k)

/-- Write the lanes of vector register r that act selects. -/
def CoreArch.setV (a : CoreArch) (r : Nat) (act : Nat → Bool) (x : Nat → BitVec 32) : CoreArch :=
  { a with v := (List.range 256).foldl (fun m k => if act k then SMap.put 0 m (r * 256 + k) (x k) else m) a.v }

/-! ### Integers in lanes -/

/-- The signed number in the low b bits of a lane (R126). -/
def laneInt (b : Nat) (x : BitVec 32) : Int := signedField b (x.toNat % 2 ^ b)

/-- A number kept in its low b bits and held extended with its sign (R126, R133). -/
def holdInt (b : Nat) (z : Int) : BitVec 32 := BitVec.ofInt 32 (signedField b (z % (2 ^ b : Nat)).toNat)

/-- A number saturated to the signed range of b bits (R34, R133). -/
def satInt (b : Nat) (z : Int) : Int :=
  let m : Int := (2 ^ (b - 1) : Nat)
  if z < -m then -m else if z > m - 1 then m - 1 else z

/-- An integer operation on b bits (R131, R133). -/
def intOp (op b : Nat) (sat : Bool) (x y : BitVec 32) : BitVec 32 :=
  let a := laneInt b x
  let c := laneInt b y
  let sh := (c % 16).toNat
  let keep := fun (z : Int) => holdInt b (if sat then satInt b z else z)
  match op with
  | 0x20 => keep (a + c)
  | 0x21 => keep (a - c)
  | 0x22 => keep (a * c)
  | 0x23 => holdInt b (min a c)
  | 0x24 => holdInt b (max a c)
  | 0x25 => holdInt b (x &&& y).toNat
  | 0x26 => holdInt b (x ||| y).toNat
  | 0x27 => holdInt b (x ^^^ y).toNat
  | 0x28 => keep (a * (2 ^ sh : Nat))
  | _ => holdInt b (a / (2 ^ sh : Nat))

/-! ### Special functions (R140) -/

/-- The flags of a result that the tables compute from a finite, non-zero operand (R46, R140). -/
def specialFlags (op : Nat) (y : BitVec 32) : Flags :=
  let tiny := y.toNat / 2 ^ 23 % 256 == 0
  let zero := y.toNat % 2 ^ 31 == 0
  let big := y.toNat % 2 ^ 31 == 0x7F800000
  flagNx ||| (if big then flagOf else 0) ||| (if tiny && (op == 0x10 || !zero) then flagUf else 0)

/-- The power of two that a finite value is, if it is one. -/
def Num.log2Exact (x : Num) : Option Int :=
  match x with
  | .fin _ m e => if m != 0 && 2 ^ Nat.log2 m == m then some (Nat.log2 m + e) else none
  | _ => none

/-- A special function on an operand that is a zero, an infinity, NaN, negative where that is special, or exact; none
where the tables supply the result (R140). -/
def specialCase (op : Nat) (a : BitVec 32) : Option (BitVec 32 × Flags) :=
  let x := f32 a
  let sg : BitVec 32 := if a.msb then 0x80000000 else 0
  let inf : BitVec 32 := 0x7F800000
  let isInf := a.toNat % 2 ^ 31 == 0x7F800000
  if x.isNan then some (nanF, flagNv)
  else
    match op with
    | 0x10 =>
      if isInf then some (if a.msb then 0 else inf, 0)
      else if x.isZero then some (0x3F800000, 0)
      else if !a.msb && 0x42B17218 ≤ a.toNat then some (inf, flagOf ||| flagNx)
      else none
    | 0x11 =>
      if x.isZero then some (0xFF800000, flagDz)
      else if a.msb then some (nanF, flagNv)
      else if isInf then some (inf, 0)
      else if a == 0x3F800000 then some (0, 0)
      else none
    | 0x12 =>
      if x.isZero then some (sg ||| inf, flagDz)
      else if a.msb then some (nanF, flagNv)
      else if isInf then some (0, 0)
      else match x.log2Exact with
        | some k => if k % 2 = 0 then some (exactF32 (.fin false 1 (-(k / 2))), 0) else none
        | none => none
    | 0x15 =>
      if x.isZero then some (sg ||| inf, flagDz)
      else if isInf then some (sg, 0)
      else match x.log2Exact with
        | some k =>
          let r := toF32 .rne (.fin a.msb 1 (-k))
          if r.2 == 0 then some r else none
        | none => none
    | _ =>
      if isInf then some (sg ||| 0x3F800000, 0)
      else if x.isZero then some (sg, 0)
      else none

/-- A special function: its special cases, or a free value within its bound, whose flags follow from it (R140). -/
def special (op : Nat) (a : BitVec 32) : BitVec 32 × Flags :=
  match specialCase op a with
  | some r => r
  | none =>
    let y := specialValue op a
    (y, specialFlags op y)

/-! ### Stage operations (R133) -/

/-- Whether a stage operation is listed (R133). -/
def stageOpOk (op : Nat) : Bool :=
  op ≤ 0x0B || (0x10 ≤ op && op ≤ 0x15) || (0x20 ≤ op && op ≤ 0x2B) || op == 0x30

/-- Latency of a stage operation in cycles (R133). -/
def stageLat (op : Nat) : Nat :=
  if op == 0x00 || op == 0x07 || op == 0x08 || op == 0x0B then 1 else if 0x10 ≤ op && op ≤ 0x15 then 6 else 2

/-- Whether the residue check covers the operation: ADD, SUB, MUL, FMA and the integer operations (R142). -/
def stageChecked (op : Nat) : Bool := (1 ≤ op && op ≤ 4) || (0x20 ≤ op && op ≤ 0x29)

/-- Whether the operation's result is an integer (R133). -/
def intResult (op : Nat) : Bool := (0x20 ≤ op && op ≤ 0x29) || op == 0x0A || op == 0x2B

/-- Whether the operation passes on the kind of its operand a. -/
def passKind (op : Nat) : Bool := op == 0x00 || op == 0x07 || op == 0x08 || op == 0x0B || op == 0x30

/-- Compare two lanes by a predicate: eq and lt of the kind compared, and whether a NaN is met (R133). -/
def cmpHolds (p : Nat) (eq lt unord : Bool) : Bool :=
  match p with
  | 0 => eq && !unord
  | 1 => lt && !unord
  | 2 => (lt || eq) && !unord
  | 3 => unord
  | _ => unord || !eq

/-- An operand passed on unchanged: a NaN held as F32 becomes the canonical NaN and raises NV (R133). -/
def passF (isInt : Bool) (x y : BitVec 32) : BitVec 32 × Flags := if !isInt && isNanF x then (nanF, flagNv) else (y, 0)

/-- One lane of one stage: operation, aux, sat, rounding, operands a, b, c and which of them hold integers (R131,
R133). RND to V4 works on blocks and is not done here. -/
def stageLane (op aux : Nat) (sat : Bool) (r : Round) (a b c : BitVec 32) (ka kb kc : Bool) : BitVec 32 × Flags :=
  let width := if aux == 0 then 8 else 16
  match op with
  | 0x00 => passF ka a a
  | 0x01 => toF32 r ((f32 a).add (f32 b))
  | 0x02 => toF32 r ((f32 a).add (f32 b).neg)
  | 0x03 => toF32 r ((f32 a).mul (f32 b))
  | 0x04 => if isNanF c then (nanF, flagNv) else toF32 r (((f32 a).mul (f32 b)).add (f32 c))
  | 0x05 => let y := minF a b; (y, if isNanF y then flagNv else 0)
  | 0x06 => let y := maxF a b; (y, if isNanF y then flagNv else 0)
  | 0x07 => passF ka a (a &&& 0x7FFFFFFF)
  | 0x08 => passF ka a (a ^^^ 0x80000000)
  | 0x09 =>
    match Fmt.ofCode aux with
    | some f =>
      let (y, fl) := roundTo f r (f32 a)
      if isNanF a then (nanF, flagNv) else (exactF32 (decodeNum f y), fl)
    | none => (a, 0)
  | 0x0A =>
    let h := if aux / 8 % 2 == 1 then cmpHolds (aux % 8) (a == b) (a.slt b) false
      else cmpHolds (aux % 8) ((f32 a).eqv (f32 b)) ((f32 a).lt (f32 b)) (isNanF a || isNanF b)
    (if h then 1 else 0, 0)
  | 0x0B =>
    let take := if kc then c != 0 else !(f32 c).isZero
    if take then passF ka a a else passF kb b b
  | 0x2A => (exactF32 (.ofInt (laneInt width a)), 0)
  | 0x2B =>
    let (y, fl) := roundInt (if aux == 0 then .int8 else .int16) r (f32 a)
    (holdInt width y, fl)
  | _ => if 0x10 ≤ op && op ≤ 0x15 then special op a else (intOp op width sat a b, 0)

/-! ### Widening and V4 blocks -/

/-- Widen one element to a lane: floating-point to F32 under RNE without NV, integers sign-extended (R130). V4 elements
come as element + 16 × scale byte. -/
def widen (f : Nat) (x : Nat) : BitVec 32 × Flags :=
  match Fmt.ofCode f with
  | none => (0, 0)
  | some g =>
    if g.isInt then (holdInt g.bits (signedField g.bits (x % 2 ^ g.bits)), 0)
    else
      let v := if g == .v4 then v4Value (x / 16) (x % 16) else decodeNum g x
      let (y, fl) := toF32 .rne v
      (y, fl &&& ~~~flagNv)

/-- The value of a lane that holds an integer or an F32 word. -/
def laneNum (isInt : Bool) (x : BitVec 32) : Num := if isInt then .ofInt x.toInt else f32 x

/-- The computed scale of block j of a beat: over active lanes, the others entering as 0 (R37, R133, R134). -/
def blockScale (xs : Nat → Num) (act : Nat → Bool) (j : Nat) : Nat :=
  scaleOf 6 (((List.range 32).map fun i => if act (32 * j + i) then xs (32 * j + i) else Num.zero).foldl maxMag .zero)

/-- A V4 element under a scale byte: the quotient rounded; under 0xFF it is 0 and raises NV. R46 names the block that
receives a NaN and no lane of it: DESIGN CHOICE, each active lane of the block raises NV, and its first active lane is the
one logged (R37, R44, R46, log 117). -/
def v4Elem (r : Round) (s : Nat) (x : Num) : Nat × Flags :=
  if s == 255 then (0, flagNv) else roundV4 r (x.scale (127 - (s : Int)))

/-! ### The reduction tree (R136) -/

/-- The tree's operation on two values: a result that is an exact zero is +0 (R33, R136). -/
def redOp (op : Nat) (a b : BitVec 32) : BitVec 32 × Flags :=
  match op with
  | 1 =>
    let x := (f32 a).add (f32 b)
    toF32 .rne (if x.isZero then .zero else x)
  | _ =>
    let y := if op == 2 then maxF a b else minF a b
    (if (f32 y).isZero then 0 else y, if isNanF y then flagNv else 0)

/-- What an inactive lane enters as (R136). -/
def redUnit (op : Nat) : BitVec 32 :=
  match op with
  | 1 => 0 | 2 => 0xFF800000 | _ => 0x7F800000

/-- One level of the tree: neighbours combine, each operation raising its flags. -/
def redLevel (op : Nat) (xs : List (BitVec 32)) : List (BitVec 32) × List Flags :=
  match xs with
  | a :: b :: r =>
    let (y, fl) := redOp op a b
    let (ys, fls) := redLevel op r
    (y :: ys, fl :: fls)
  | r => (r, [])

/-- The levels of the tree, from the lanes to one value, with the flags of every operation. -/
def redTree (op : Nat) (xs : List (BitVec 32)) (levels : Nat) : BitVec 32 × List Flags :=
  match levels with
  | 0 => (xs.headD 0, [])
  | k + 1 =>
    let (ys, fls) := redLevel op xs
    let (y, fls2) := redTree op ys k
    (y, fls ++ fls2)

end Sys2Proof.Machine
end

