-- ==== Sys2Proof/Machine/VectorEng.lean ====
section
/-! DEFINITION. The vector engine (R126 to R143, R212): chains beat by beat, their flags and NaN origins, and the
register rearrangements. -/

namespace Sys2Proof.Machine

/-! ### Chain descriptors (R128, R129, R131) -/

/-- A chain descriptor: the header's fields and the stage words. -/
structure Chain where
  rows : Nat
  w : Nat
  quiet : Bool
  in0 : Nat × Nat × Nat
  in1 : Nat × Nat × Nat
  dst : Nat × Nat × Nat
  rnd : Nat
  hs : Nat
  red : Nat
  redRing : Bool
  redIdx : Nat
  men : Bool
  mreg : Nat
  tid : BitVec 16
  stages : List Nat

/-- Bits [hi:lo] of a number. -/
def nbits (x hi lo : Nat) : Nat := x / 2 ^ lo % 2 ^ (hi + 1 - lo)

/-- Stages of a chain header (R129). -/
def chainStages (h0 : Nat) : Nat := nbits h0 35 33 + 1

/-- The fields of a chain descriptor (R129, R131). -/
def chainOf (desc : List Byte) : Chain :=
  let a := natAt desc 0 8
  let b := natAt desc 8 8
  { rows := nbits a 63 48, w := nbits a 47 36 + 1, quiet := nbits a 32 32 == 1
    in0 := (nbits a 31 30, nbits a 29 20, nbits a 19 16), in1 := (nbits a 15 14, nbits a 13 4, nbits a 3 0)
    dst := (nbits b 63 62, nbits b 61 52, nbits b 51 48), rnd := nbits b 47 46, hs := nbits b 45 44
    red := nbits b 43 42, redRing := nbits b 41 41 == 1, redIdx := nbits b 40 36, men := nbits b 35 35 == 1
    mreg := nbits b 34 32, tid := BitVec.ofNat 16 (nbits b 31 16)
    stages := (List.range (chainStages a)).map fun j => natAt desc (16 + 8 * j) 8 }

/-- Beats of a row (R130). -/
def Chain.beats (c : Chain) : Nat := (c.w + 255) / 256

/-- Heel row stride of every heel operand (R129). -/
def Chain.stride (c : Chain) : Nat := 256 * 2 ^ c.hs

/-- Whether an operand's kind, index and format go together: ring, heel, vector register, none (R129, R130, R134). -/
def Chain.placeOk (c : Chain) (p : Nat × Nat × Nat) : Bool :=
  match p.1 with
  | 0 => p.2.1 < 16 && (p.2.2 != 3 || c.w % 256 == 0)
  | 1 => (p.2.2 == 4 || p.2.2 == 5) && c.w ≤ c.stride
  | 2 => p.2.1 < 32 && p.2.2 != 3 && (c.rows == 0 || p.2.1 + c.rows * c.beats ≤ 32)
  | _ => true

/-- The selectors of a stage word. -/
def stageSels (v : Nat) : List Nat := [nbits v 23 20, nbits v 19 16, nbits v 15 12]

/-- Whether stage j's selectors, aux and registers are none of the reserved combinations (R131 to R133). -/
def Chain.stageOk (c : Chain) (j v : Nat) : Bool :=
  let op := nbits v 31 24
  let aux := nbits v 3 0
  let vr := nbits v 11 7
  let sels := stageSels v
  let kinds := (sels.filter fun x => 4 ≤ x && x ≤ 6).eraseDups
  sels.all (fun x => x < 8 || x - 7 < j) && kinds.length ≤ 1 &&
    (!kinds.contains 5 || vr + c.beats ≤ 32) && (!kinds.contains 6 || c.rows == 0 || vr + (c.rows - 1) / 256 ≤ 31) &&
    (op != 0x0A || aux % 8 ≤ 4) && (!((0x20 ≤ op && op ≤ 0x2B) && aux > 1))

/-- Whether the format codes and roundings of the chain are accepted: no code is reserved, used or not (R25, R41, R133,
R134). -/
def Chain.fmtOk (c : Chain) : Bool :=
  let code := fun (p : Nat × Nat × Nat) => (Fmt.ofCode p.2.2).isSome
  code c.in0 && code c.in1 && code c.dst && c.rnd != 3 && (c.dst.1 != 0 || c.dst.2.2 != 3 || c.rnd != 2) &&
    c.stages.all fun v => nbits v 6 5 != 3 && (nbits v 31 24 != 0x09 ||
      ((Fmt.ofCode (nbits v 3 0)).isSome && (nbits v 3 0 != 3 || nbits v 6 5 != 2)))

/-- The checks of a chain descriptor's contents (R129 to R134, R136, R190). -/
def chainCheck (desc : List Byte) : Option (BitVec 8) :=
  let c := chainOf desc
  let redOk := c.red == 0 || (if c.redRing then c.redIdx < 16 else c.rows == 0 || c.redIdx + (c.rows - 1) / 256 ≤ 31)
  let resv := natAt desc 8 8 % 65536 == 0 && c.in0.1 != 3 && c.hs != 3 && (c.rows != 0 || c.in0.1 == 0) &&
    c.placeOk c.in0 && c.placeOk c.in1 && c.placeOk c.dst && redOk &&
    ((List.range c.stages.length).zip c.stages).all fun p => c.stageOk (p.1 + 1) p.2
  firstFail [(c.stages.all fun v => stageOpOk (nbits v 31 24), 0x01), (resv, cResv), (c.fmtOk, cFmt)]

/-- Registers from a first one, over the chain's rows or beats; to v31 where the rows are not known (R127). -/
def regSpan (first count : Nat) (known : Bool) : List Nat :=
  (List.range (if known then count else 32 - first)).map (first + ·)

/-- Sum of the latencies of the first j stages of a chain; of all of them it is Λ (R135). -/
def Chain.latency (c : Chain) (j : Nat) : Nat := ((c.stages.take j).map fun v => stageLat (nbits v 31 24)).sum

/-- Whether a beat of the chain may read what another of its beats writes: heel or vector registers (R130, R132, R136). -/
def Chain.readsOwn (c : Chain) : Bool :=
  let ins := fun (k : Nat) => c.in0.1 == k || c.in1.1 == k
  let regs := c.dst.1 == 2 || (c.red != 0 && !c.redRing)
  let sels := c.stages.any fun v => nbits v 31 24 == 0x30 || (stageSels v).any fun x => 4 ≤ x && x ≤ 6
  (c.dst.1 == 1 && ins 1) || (regs && (ins 2 || sels))

/-- The vector registers a chain writes (R127, R134, R136). -/
def Chain.writes (c : Chain) : List Nat :=
  (if c.dst.1 == 2 then regSpan c.dst.2.1 (c.rows * c.beats) (c.rows != 0) else []) ++
    (if c.red != 0 && !c.redRing then regSpan c.redIdx ((c.rows + 255) / 256) (c.rows != 0) else [])

/-! ### Flags, overflow and NaN of a beat -/

/-- What a beat or pack has raised: the flags of its active lanes, the row, lane and stage of its first NV and of its first
OF, and how many OF there were. -/
structure Raised where
  fl : Flags
  nv : Option (Nat × Nat × Nat)
  ov : Option (Nat × Nat × Nat)
  ovs : Nat

/-- Nothing raised. -/
def Raised.none : Raised := { fl := 0, nv := Option.none, ov := Option.none, ovs := 0 }

/-- Add the flags of one active lane of a row at a stage (R134, R137). -/
def Raised.add (r : Raised) (fl : Flags) (row lane stage : Nat) : Raised :=
  { fl := r.fl ||| fl
    nv := if r.nv.isNone && Flags.has fl flagNv then some (row, lane, stage) else r.nv
    ov := if r.ov.isNone && Flags.has fl flagOf then some (row, lane, stage) else r.ov
    ovs := if Flags.has fl flagOf then r.ovs + 1 else r.ovs }

/-- Add the flags of the active lanes of a row at a stage, in lane order. -/
def Raised.addLanes (r : Raised) (act : Nat → Bool) (fl : Nat → Flags) (row stage : Nat) : Raised :=
  (List.range 256).foldl (fun r k => if act k then r.add (fl k) row k stage else r) r

/-- Record what was raised: both sticky copies, the origin of the first NV while nv is 0, NaN in the region, and with
quiet 0 an overflow for each OF; the answer tells of an overflow (R134, R137, R138, R172, R173). -/
def State.raise (s : State) (n : Core) (e : QEntry) (r : Raised) (quiet : Bool) (fmt : Nat) : State × Bool :=
  let s := s.modCore n fun c =>
    let g := c.reg
    let g := match r.nv with
      | some (row, lane, stage) =>
        if Flags.has g.vxFlags flagNv then g
        else { g with nanRow := BitVec.ofNat 16 row, nanLane := BitVec.ofNat 8 lane, nanStage := BitVec.ofNat 4 stage }
      | none => g
    { c with reg := { g with vxFlags := g.vxFlags ||| r.fl }, vxProg := c.vxProg ||| r.fl }
  let s := match r.nv with
    | some (row, lane, stage) => s.nanAt n e row lane stage
    | none => s
  match r.ov with
  | some (row, lane, stage) => if quiet then (s, false) else (s.overflowAt n e 3 row lane stage fmt r.ovs, true)
  | none => (s, false)

/-! ### A beat -/

/-- One input of a beat: lane values, whether they are integers, and the flags of widening. -/
structure InVal where
  x : Lanes
  isInt : Bool
  fl : Nat → Flags

/-- Widened lanes of element encodings. -/
def widenAll (f : Nat) (els : List Nat) : InVal :=
  let v : Vector Nat 256 := Vector.ofFn fun i => els.getD i.val 0
  let w := fun (k : Nat) => if k < els.length then widen f (vgetD v k 0) else (0, 0)
  { x := lanesOf fun k => (w k).1, isInt := f == 7 || f == 8, fl := fun k => (w k).2 }

/-- Elements of beat b of a row (R130). -/
def Chain.beatLen (c : Chain) (b : Nat) : Nat := min 256 (c.w - 256 * b)

/-- Bytes a ring input gives a beat (R130). -/
def Chain.beatBytes (c : Chain) (f b : Nat) : Nat :=
  if f == 3 then 136 else c.beatLen b * (match Fmt.ofCode f with
    | some g => g.bits / 8
    | none => 1)

/-- An input's element encodings for a beat: from ring bytes, the heel, or a vector register (R126, R130). -/
def Chain.inElems (c : Chain) (a : CoreArch) (p : Nat × Nat × Nat) (row b : Nat) (bs : List Byte) : List Nat :=
  let m := c.beatLen b
  match p.1 with
  | 0 => if p.2.2 == 3 then splitV4 bs else splitElems (c.beatBytes p.2.2 b / m) bs m
  | 1 =>
    let z := accBytes p.2.2
    (List.range m).map fun k => Memory.nat a.heel (heelOff c.stride z (p.2.1 + row) (256 * b + k)) z
  | 2 => (List.range m).map fun k => (SMap.get 0 a.v ((p.2.1 + row * c.beats + b) * 256 + k)).toNat
  | _ => []

/-- Whether a heel input of a beat meets a poisoned or uncorrectable element (R101, R139). -/
def Chain.inBad (c : Chain) (a : CoreArch) (hw : HwFault) (p : Nat × Nat × Nat) (row b : Nat) : Bool :=
  p.1 == 1 && (List.range (c.beatLen b)).any fun k =>
    let z := accBytes p.2.2
    hw.heel.contains (row, 256 * b + k) || a.heelBad (heelOff c.stride z (p.2.1 + row) (256 * b + k)) z

/-- A stage operand in lane k (R132): selector, stage word, row and beat, the inputs, and the results of earlier
stages, first stage first. -/
def stageOperand (a : CoreArch) (id sel v row b : Nat) (in0 : InVal) (in1 : Option InVal) (vals : List (Lanes × Bool)) :
    Lanes × Bool :=
  let vr := nbits v 11 7
  let zero : Lanes := Vector.replicate 256 0
  match sel with
  | 0 => (in0.x, in0.isInt)
  | 1 =>
    match in1 with
    | some i => (i.x, i.isInt)
    | none => (lanesOf fun k => Config.absentInput id k, false)
  | 2 => vals.getLastD (in0.x, in0.isInt)
  | 3 => (Vector.replicate 256 (BitVec.ofNat 32 (nbits v 63 32)), false)
  | 4 => (a.vreg vr, false)
  | 5 => (a.vreg (vr + b), false)
  | 6 => (Vector.replicate 256 (SMap.get 0 a.v ((vr + row / 256) * 256 + row % 256)), false)
  | 7 => (zero, false)
  | _ => vals.getD (sel - 8) (zero, false)

/-- One stage of a beat: its lanes, whether they are integers, and each lane's flags. DESIGN CHOICE: in a block that RND to
V4 gives the scale 0xFF each active lane raises NV, so that the block's first active lane is the origin (R133, log 117). -/
def runStage (c : CoreSt) (ch : Chain) (id slot v row b : Nat) (act : Nat → Bool) (in0 : InVal) (in1 : Option InVal)
    (vals : List (Lanes × Bool)) : Lanes × Bool × Vector Flags 256 :=
  let op := nbits v 31 24
  let aux := nbits v 3 0
  let (x, kx) := stageOperand c.arch id (nbits v 23 20) v row b in0 in1 vals
  let (y, ky) := stageOperand c.arch id (nbits v 19 16) v row b in0 in1 vals
  let (z, kz) := stageOperand c.arch id (nbits v 15 12) v row b in0 in1 vals
  let r := fun (k : Nat) => Round.ofCode (nbits v 6 5) (c.drawOf ch.tid 2 slot (row * 4096 + 256 * b + k))
  let lane : Nat → BitVec 32 × Flags :=
    if op == 0x09 && aux == 3 then
      let num := fun (k : Nat) => laneNum kx (laneAt x k)
      let sc : Vector Nat 8 := Vector.ofFn fun j => blockScale num act j.val
      fun k =>
        let s := vgetD sc (k / 32) 255
        let (el, fl) := v4Elem (r k) s (num k)
        let (w, fl2) := toF32 .rne (v4Value s el)
        if s == 255 then (nanF, fl) else (w, fl ||| fl2)
    else if op == 0x30 then
      let ix := c.arch.vreg (nbits v 11 7)
      fun k => passF kx (laneAt x ((laneAt ix k).toNat % 256)) (laneAt x ((laneAt ix k).toNat % 256))
    else fun k => stageLane op aux (nbits v 4 4 == 1) (r k) (laneAt x k) (laneAt y k) (laneAt z k) kx ky kz
  let res : Vector (BitVec 32 × Flags) 256 := Vector.ofFn fun i => lane i.val
  (res.map Prod.fst, (if intResult op then true else if passKind op then kx else false), res.map Prod.snd)

/-- The destination conversion of a beat: each active lane's encoding, the block scales for V4, and the flags (R133,
R134). -/
def convBeat (c : CoreSt) (ch : Chain) (row b : Nat) (act : Nat → Bool) (last : Lanes × Bool) :
    Vector Nat 256 × List Nat × Vector Flags 256 :=
  let df := ch.dst.2.2
  let num := fun (k : Nat) => laneNum last.2 (laneAt last.1 k)
  let r := fun (k : Nat) => Round.ofCode ch.rnd (c.drawOf ch.tid 2 9 (row * 4096 + 256 * b + k))
  let scales := if df == 3 then (List.range 8).map (blockScale num act) else []
  let conv := fun (k : Nat) =>
    if !act k then (0, (0 : Flags))
    else if df == 3 then v4Elem (r k) (scales.getD (k / 32) 255) (num k)
    else
      match Fmt.ofCode df with
      | some f => roundTo f (r k) (num k)
      | none => (0, 0)
  let res : Vector (Nat × Flags) 256 := Vector.ofFn fun i => conv i.val
  (res.map Prod.fst, scales, res.map Prod.snd)

/-- The bytes a beat writes to a ring: w elements packed, a masked one as +0, or 8 scale and 128 element bytes for V4
(R130, R134). -/
def Chain.beatOut (c : Chain) (b : Nat) (enc : Vector Nat 256) (scales : List Nat) : List Byte :=
  if c.dst.2.2 == 3 then
    scales.map (BitVec.ofNat 8) ++ (List.range 128).map fun i =>
      BitVec.ofNat 8 (vgetD enc (2 * i) 0 + 16 * vgetD enc (2 * i + 1) 0)
  else
    let z := c.beatBytes c.dst.2.2 b / c.beatLen b
    (List.range (c.beatLen b)).flatMap fun k => leBytes z (vgetD enc k 0)

/-- The stages of a beat, as far as the last: each stage's lanes, and what they raised. seen gives the core as stage j + 1
of the beat reads it. DESIGN CHOICE: of the NV that a beat raises, the one of the earliest stage and then of the lowest
lane is its first (R131 to R135, R138, log 121). -/
def Chain.runStages (ch : Chain) (seen : Nat → CoreSt) (id row b : Nat) (act : Nat → Bool) (in0 : InVal)
    (in1 : Option InVal) : List (Lanes × Bool) × Raised :=
  ch.stages.zipIdx.foldl (fun (acc : List (Lanes × Bool) × Raised) p =>
    let (y, k, fl) := runStage (seen p.2) ch id (p.2 + 1) p.1 row b act in0 in1 acc.1
    let wid := fun (i : Nat) => if p.2 = 0 then in0.fl i ||| (match in1 with
      | some v => v.fl i
      | none => 0) else 0
    (acc.1 ++ [(y, k)], acc.2.addLanes act (fun i => vgetD fl i 0 ||| wid i) row (p.2 + 1))) ([], Raised.none)

/-- What a beat writes to the heel or to vector registers (R134). -/
def Chain.destWrites (ch : Chain) (row b : Nat) (act : Nat → Bool) (enc : Vector Nat 256) : List LateWrite :=
  let lanes := (List.range (ch.beatLen b)).filter act
  match ch.dst.1 with
  | 1 =>
    let z := accBytes ch.dst.2.2
    lanes.map fun k => .heel (heelOff ch.stride z (ch.dst.2.1 + row) (256 * b + k)) z (vgetD enc k 0)
  | 2 => lanes.map fun k => .lane ((ch.dst.2.1 + row * ch.beats + b) * 256 + k) (BitVec.ofNat 32 (vgetD enc k 0))
  | _ => []

/-- Cycles without a beat before beat q of a chain enters: none where it reads no ring, else the spec does not say how many
(R135). -/
def Chain.bubbles (ch : Chain) (e : QEntry) (q : Nat) : Nat :=
  if ch.in0.1 == 0 || ch.in1.1 == 0 then Config.turn [e.id, q] else 0

/-- A chain's progress with a beat entered: stages, destination, reduction, flags. g already holds the input bytes taken.
Where the chain reads what it writes, beat q sees the destination writes of beats up to q − Λ at its inputs, and of later
ones at a later stage, and a row's reduction 5 cycles later still; a write in the very cycle of a read is not seen
(DEDUCED, log 124). DESIGN CHOICE: beats raise NV in beat order, and the lane of an NV that the tree raises is 0 (log 121).
DESIGN CHOICE: where rows is 0, a reduction result past v31 faults the core when it is due, with the row's beats written
(R130 to R138, log 123). -/
def State.chainBeat (s : State) (n : Core) (x : RunEntry) (ch : Chain) (g : Progress) : State :=
  let e := x.e
  let row := g.row
  let b := g.beat
  let q := row * ch.beats + b
  let now := q + (if g.late.isEmpty then 0 else ch.bubbles e q)
  let c := s.core n
  let seen := fun (j : Nat) => { c with arch := c.arch.withLate g.late (now + ch.latency j) }
  let m := ch.beatLen b
  let mask : BitVec 256 := vgetD c.arch.m ch.mreg 0
  let act := fun (k : Nat) => k < m && (!ch.men || mask.getLsbD k)
  let get := fun (p : Nat × Nat × Nat) (bs : List Byte) => widenAll p.2.2 (ch.inElems (seen 0).arch p row b bs)
  let in0 := get ch.in0 (padTo (ch.beatBytes ch.in0.2.2 b) g.got)
  let in1 := if ch.in1.1 == 3 then none else some (get ch.in1 (padTo (ch.beatBytes ch.in1.2.2 b) g.got1))
  let (vals, rz) := ch.runStages seen e.id row b act in0 in1
  let last := vals.getLastD (in0.x, in0.isInt)
  let (enc, scales, cf) := if ch.dst.1 == 3 then (Vector.replicate 256 0, [], Vector.replicate 256 0)
    else convBeat c ch row b act last
  let rz := rz.addLanes act (fun i => vgetD cf i 0) row 9
  let out := if ch.dst.1 == 0 then g.out ++ ch.beatOut b enc scales else g.out
  let s := if ch.dst.1 == 0 then s.claimTail n ch.dst.2.1 out else s
  let endRow := b + 1 ≥ ch.beats
  let lanes := (List.range 256).map fun k =>
    if act k then exactF32 (laneNum last.2 (laneAt last.1 k)) else redUnit ch.red
  let (t, tfs) := if ch.red == 0 then (0, []) else redTree ch.red lanes 8
  let (acc, af) := match g.acc with
    | some a => if ch.red == 0 then (a, 0) else redOp ch.red a t
    | none => (t, 0)
  let rz := (tfs ++ [af]).foldl (fun r fl => r.add fl row 0 10) rz
  let write := ch.red != 0 && endRow
  let past := write && !ch.redRing && ch.redIdx + row / 256 > 31
  let dest := ch.destWrites row b act enc
  let redw : List LateWrite := if write && !ch.redRing && !past then [.lane ((ch.redIdx + row / 256) * 256 + row % 256) acc]
    else []
  let out1 := if write && ch.redRing then g.out1 ++ leBytes 4 acc.toNat else g.out1
  let s := if write && ch.redRing then s.claimTail n ch.redIdx out1 else s
  let s := if ch.readsOwn then s.modArch n fun a => a.withLate g.late now
    else s.modArch n fun a => (dest ++ redw).foldl CoreArch.lateWrite a
  let late := if ch.readsOwn then (g.late.filter fun y => now < y.1) ++
      [(now + ch.latency 8, dest), (now + ch.latency 8 + 5, redw)] else []
  let (s, ovf) := s.raise n e rz ch.quiet ch.dst.2.2
  let s := s.modRun n .vx e.id fun _ =>
    { g with row := if endRow then row + 1 else row, beat := if endRow then 0 else b + 1, got := [], got1 := []
             acc := if endRow then none else some acc, out := out, out1 := out1, flags := g.flags ||| rz.fl
             ovf := g.ovf || ovf, late := late }
  if past then s.coreFault n cResv e.pc else s

/-- Whether a beat of a chain whose rows are not known would read or write past v31 (R130, R132, R134). -/
def Chain.past (c : Chain) (row b : Nat) : Bool :=
  let q := row * c.beats + b
  let rowv := c.stages.any fun v => (stageSels v).contains 6 && nbits v 11 7 + row / 256 > 31
  c.rows == 0 && ((c.in0.1 == 2 && c.in0.2.1 + q > 31) || (c.in1.1 == 2 && c.in1.2.1 + q > 31) ||
    (c.dst.1 == 2 && c.dst.2.1 + q > 31) || rowv)

/-- The residue mismatches of a beat: each at a row, an element and a stage the check covers, 10 being the tree (R142). -/
def Chain.hits (c : Chain) (hw : HwFault) (row b : Nat) : List Mismatch :=
  hw.residue.filter fun m => m.row == row && m.col / 256 == b && m.col < c.w && m.err % 7 != 0 &&
    (if m.stage == 10 then c.red != 0
      else 1 ≤ m.stage && m.stage ≤ c.stages.length && stageChecked (nbits (c.stages.getD (m.stage - 1) 0) 31 24))

/-- What a chain meets at its next beat once its inputs are there (R139, R142): ECC_UNCORRECTABLE ends it, a persistent
mismatch faults the core, otherwise the beat goes through. -/
def State.enterBeat (s : State) (n : Core) (x : RunEntry) (ch : Chain) (g : Progress) : State :=
  let c := s.core n
  let special := ch.stages.any fun v => 0x10 ≤ nbits v 31 24 && nbits v 31 24 ≤ 0x15
  let q := g.row * ch.beats + g.beat
  let arch := c.arch.withLate g.late (q + (if g.late.isEmpty then 0 else ch.bubbles x.e q))
  let bad := ch.inBad arch x.hw ch.in0 g.row g.beat || ch.inBad arch x.hw ch.in1 g.row g.beat ||
    (special && x.hw.table.contains q)
  if bad then s.modRun n .vx x.e.id fun _ => { g with fail := some .eccUncorrectable }
  else
    let hs := ch.hits x.hw g.row g.beat
    let s := hs.foldl (fun s m => s.mismatch n x.e m.row (m.col % 256) m.stage) s
    if hs.any Mismatch.persists then (s.endRun n .vx x.e.id .residueFault).coreFault n 0x0A x.e.pc
    else s.chainBeat n x ch g

/-- Take what a ring input holds for the next beat. rows 0 ends a chain at in0's end mark, and the rest of its last row
is zeros (R149). The answer holds the bytes, whether they suffice, and whether data failed its code or the stream ended. -/
def State.beatFeed (s : State) (n : Core) (x : RunEntry) (ch : Chain) (p : Nat × Nat × Nat) (b : Nat) (got : List Byte)
    (toEos ended : Bool) : State × List Byte × Bool × Bool × Bool :=
  let need := ch.beatBytes p.2.2 b
  if p.1 != 0 || ended || got.length ≥ need then (s, got, true, false, ended)
  else
    let (s, bs, bad, e) := s.feed n .vx x p.2.1 (need - got.length) toEos
    (s, got ++ bs, got.length + bs.length ≥ need || e, bad, e)

/-- A chain takes ring data or enters its next beat; none where it waits. It fails where it needs a byte that a failed ring
does not hold (R130, R135, R139, R149, R150). -/
def State.chainEnter (s : State) (n : Core) (x : RunEntry) (ch : Chain) : Option State :=
  let c := s.core n
  let g := x.g
  if (ch.dst.1 == 0 && !c.outReady ch.dst.2.1 g.out) ||
      (ch.red != 0 && ch.redRing && g.late.isEmpty && !c.outReady ch.redIdx g.out1) then none
  else if ch.past g.row g.beat then some (s.coreFault n cResv x.e.pc)
  else
    let (s1, b0, ok0, bad0, stop) := s.beatFeed n x ch ch.in0 g.beat g.got (ch.rows == 0) g.stop
    let (s2, b1, ok1, bad1, _) := s1.beatFeed n ((s1.core n).runOf .vx x.e.id |>.getD x) ch ch.in1 g.beat g.got1 false false
    let g2 := { g with got := b0, got1 := b1, stop := stop }
    let lost := fun (ok : Bool) (p : Nat × Nat × Nat) => if ok then none else (c.arch.ringOf p.2.1).broken
    if bad0 || bad1 then some (s2.modRun n .vx x.e.id fun _ => { g2 with fail := some .eccUncorrectable })
    else if ok0 && ok1 then some (s2.enterBeat n x ch g2)
    else if b0.length == g.got.length && b1.length == g.got1.length then
      ((lost ok0 ch.in0).orElse fun _ => lost ok1 ch.in1).map fun st =>
        s.modRun n .vx x.e.id fun g => { g with fail := some st }
    else some (s2.modRun n .vx x.e.id fun _ => g2)

/-- A chain goes on by one act: it fills a slot, takes ring data, enters a beat, or makes its last writes and ends; none
where it waits. Its reduction's slot is handed over once what its beats wrote before is written (R134 to R136, R149,
R150). -/
def State.chainStep (s : State) (n : Core) (x : RunEntry) : Option State :=
  let g := x.g
  let ch := chainOf g.desc
  let ended := g.fail.isSome || (ch.rows != 0 && g.row ≥ ch.rows) || (ch.rows == 0 && g.stop && g.beat == 0)
  let all := g.late.foldl (fun m y => max m y.1) 0
  match s.flush n ch.dst.2.1 x.e.id g.out ended,
      (if g.late.isEmpty then s.flush n ch.redIdx x.e.id g.out1 ended else none) with
  | some (s, out, bad), _ => some (s.modRun n .vx x.e.id fun g => { g with out := out, soft := g.soft || bad })
  | none, some (s, out, bad) => some (s.modRun n .vx x.e.id fun g => { g with out1 := out, soft := g.soft || bad })
  | none, none =>
    if ended then
      if !g.late.isEmpty then some (s.commitLate n x all)
      else if g.out.isEmpty && g.out1.isEmpty then some (s.endRun n .vx x.e.id (g.fail.getD .ok))
      else none
    else
      match s.chainEnter n x ch with
      | some t => some t
      | none => if !g.late.isEmpty && g.out1.length ≥ 4096 then some (s.commitLate n x all) else none

/-! ### Issue -/

/-- VX.CHAIN: the descriptor offset in [43:21] is a multiple of 8 (R128, R212). -/
def execVxChain (n : Core) (w : BitVec 48) (s : State) : Host.Outcome State Fault Refusal :=
  .next (s.issueEngine n .vx .vxChain w 0 0 0
    (firstFail [(tailOk w && clear w 47 44, cResv), (bitsOf w 43 21 % 8 == 0, cAlign)]))

/-- Issue of a register rearrangement whose bits from lo downto 21 are reserved. -/
def State.issueReg (s : State) (n : Core) (w : BitVec 48) (op : EngOp) (lo : Nat) (ok fmt : Bool) : State :=
  s.issueEngine n .vx op w (bitsOf w 42 37) 0 0
    (firstFail [(tailOk w && clear w lo 21 && ok, cResv), (fmt, cFmt)])

/-- VX.PERM vd, va, vi (R141, R212). -/
def execVxPerm (n : Core) (w : BitVec 48) (s : State) : Host.Outcome State Fault Refusal :=
  .next (s.issueReg n w .vxPerm 32 true true)

/-- VX.PERM2 vd, va, vb, vi (R141, R212). -/
def execVxPerm2 (n : Core) (w : BitVec 48) (s : State) : Host.Outcome State Fault Refusal :=
  .next (s.issueReg n w .vxPerm2 27 true true)

/-- VX.SHUF vd, va, pat, imm (R141, R212). -/
def execVxShuf (n : Core) (w : BitVec 48) (s : State) : Host.Outcome State Fault Refusal :=
  let pat := bitsOf w 37 35
  .next (s.issueReg n w .vxShuf 26 (pat < 6 && (pat == 1 || pat ≥ 4 || bitsOf w 34 27 == 0)) true)

/-- VX.CMPR vd, va, mk (R141, R212). -/
def execVxCmpr (n : Core) (w : BitVec 48) (s : State) : Host.Outcome State Fault Refusal :=
  .next (s.issueReg n w .vxCmpr 34 true true)

/-- VX.EXPD vd, va, mk (R141, R212). -/
def execVxExpd (n : Core) (w : BitVec 48) (s : State) : Host.Outcome State Fault Refusal :=
  .next (s.issueReg n w .vxExpd 34 true true)

/-- Elements to a lane of a format that VX.PACK and VX.UNPK accept: 2 or 4; none otherwise (R141, R212). -/
def packPer (f : Nat) : Option Nat :=
  if f == 0 || f == 4 || f == 8 then some 2 else if f == 1 || f == 2 || f == 7 then some 4 else none

/-- VX.PACK vd, va, fmt, rnd (R141, R212). -/
def execVxPack (n : Core) (w : BitVec 48) (s : State) : Host.Outcome State Fault Refusal :=
  let p := packPer (bitsOf w 37 34)
  .next (s.issueReg n w .vxPack 31 (bitsOf w 42 38 + p.getD 1 ≤ 32) (p.isSome && bitsOf w 33 32 != 3))

/-- VX.UNPK vd, va, fmt (R141, R212). -/
def execVxUnpk (n : Core) (w : BitVec 48) (s : State) : Host.Outcome State Fault Refusal :=
  let p := packPer (bitsOf w 37 34)
  .next (s.issueReg n w .vxUnpk 33 (bitsOf w 47 43 + p.getD 1 ≤ 32) p.isSome)

/-- VX.MSET mk, va (R141, R212). -/
def execVxMset (n : Core) (w : BitVec 48) (s : State) : Host.Outcome State Fault Refusal :=
  .next (s.issueReg n w .vxMset 39 true true)

/-- VX.SPLAT vd, sn: the scalar is read at issue (R59, R141, R212). -/
def execVxSplat (n : Core) (w : BitVec 48) (s : State) : Host.Outcome State Fault Refusal :=
  .next (s.issueReg n w .vxSplat 36 true true)

/-- VX.FLAGS vd (R137, R212). -/
def execVxFlags (n : Core) (w : BitVec 48) (s : State) : Host.Outcome State Fault Refusal :=
  .next (s.issueReg n w .vxFlags 42 true true)

/-! ### Starts -/

/-- A chain starts: the descriptor's place and contents are checked, then it takes its rings (R128, R129, R139, R148,
R519). -/
def State.startChain (s : State) (n : Core) (e : QEntry) (hw : HwFault) : State :=
  let off := bitsOf e.w 43 21
  if off + 16 > scratchSize then s.coreFault n cSpace e.pc
  else
    let (t, st, head) := s.readDesc n e.id off 16 hw.descEcc
    let len := 16 + 8 * chainStages (natAt head 0 8)
    if st == .ok && off + len > scratchSize then s.coreFault n cSpace e.pc
    else
      let (u, st2, desc) := t.readDesc n e.id off len .clean
      if st != .ok || st2 != .ok then
        u.addRun n .vx e hw { Progress.zero with fail := some .eccUncorrectable }
      else
        match chainCheck desc with
        | some k => s.coreFault n k e.pc
        | none =>
          let ch := chainOf desc
          let u := u.modArch n fun a =>
            let a := if ch.in0.1 == 0 then a.consume ch.in0.2.1 e.id else a
            let a := if ch.in1.1 == 0 then a.consume ch.in1.2.1 e.id else a
            let a := if ch.dst.1 == 0 then a.produce ch.dst.2.1 e.id else a
            if ch.red != 0 && ch.redRing then a.produce ch.redIdx e.id else a
          u.addRun n .vx e hw { Progress.zero with desc := desc }

/-- The lane that pattern pat of VX.SHUF takes for lane k (R141). -/
def shufLane (pat imm k : Nat) : Nat :=
  match pat with
  | 0 => 255 - k
  | 1 => (k + imm) % 256
  | 2 => k / 2 + 128 * (k % 2)
  | 3 => 2 * k % 256 + k / 128
  | 4 => k ^^^ imm
  | _ => imm

/-- Lanes whose mask bit is 1, in order. -/
def maskLanes (m : BitVec 256) : List Nat := (List.range 256).filter fun k => m.getLsbD k

/-- VX.PACK (R141, R181): the sequence number rises, the elements convert, and flags count as a one-beat chain's. -/
def State.packRegs (s : State) (n : Core) (e : QEntry) : State × Bool :=
  let f := bitsOf e.w 37 34
  let per := (packPer f).getD 2
  let va := bitsOf e.w 42 38
  let c := s.core n
  match Fmt.ofCode f with
  | none => (s, false)
  | some g =>
    let conv := fun (i : Nat) =>
      roundTo g (Round.ofCode (bitsOf e.w 33 32) (c.drawOf 0xFFFF 3 0 (c.packs * 1024 + i)))
        (f32 (SMap.get 0 c.arch.v (va * 256 + i)))
    let rz := (List.range (256 * per)).foldl (fun (r : Raised) i => r.add (conv i).2 (i / 256) (i % 256) 9) Raised.none
    let word := fun (k : Nat) => BitVec.ofNat 32
      (((List.range per).map fun j => (conv (per * k + j)).1 * 2 ^ (g.bits * j)).sum)
    let s := s.modCore n fun c => { c with packs := c.packs + 1
                                           arch := c.arch.setV (bitsOf e.w 47 43) (fun _ => true) word }
    s.raise n e rz false f

/-- The new vector registers and masks of a rearrangement other than VX.PACK (R137, R141). -/
def CoreSt.rearrange (c : CoreSt) (e : QEntry) : CoreSt :=
  let w := e.w
  let a := c.arch
  let vd := bitsOf w 47 43
  let x := a.vreg (bitsOf w 42 38)
  let all := fun (_ : Nat) => true
  let put := fun (f : Nat → BitVec 32) => { c with arch := a.setV vd all f }
  match e.op with
  | .vxPerm =>
    let ix := a.vreg (bitsOf w 37 33)
    put fun k => laneAt x ((laneAt ix k).toNat % 256)
  | .vxPerm2 =>
    let y := a.vreg (bitsOf w 37 33)
    let ix := a.vreg (bitsOf w 32 28)
    put fun k =>
      let i := (laneAt ix k).toNat % 512
      if i < 256 then laneAt x i else laneAt y (i - 256)
  | .vxShuf => put fun k => laneAt x (shufLane (bitsOf w 37 35) (bitsOf w 34 27) k)
  | .vxCmpr =>
    let on := maskLanes (vgetD a.m (bitsOf w 37 35) 0)
    put fun k => if k < on.length then laneAt x (on.getD k 0) else 0
  | .vxExpd =>
    let m : BitVec 256 := vgetD a.m (bitsOf w 37 35) 0
    { c with arch := a.setV vd (fun k => m.getLsbD k) fun k =>
        laneAt x (((List.range k).filter fun j => m.getLsbD j).length) }
  | .vxUnpk =>
    let f := bitsOf w 37 34
    let per := (packPer f).getD 2
    let z := 32 / per
    let el := fun (i : Nat) => (laneAt x (i / per)).toNat / 2 ^ (z * (i % per)) % 2 ^ z
    { c with arch := (List.range per).foldl (fun a j => a.setV (vd + j) all fun k => (widen f (el (256 * j + k))).1) a }
  | .vxMset =>
    let y := a.vreg (bitsOf w 44 40)
    let bits := (List.range 256).foldl (fun m k => if laneAt y k != 0 then m + 2 ^ k else m) 0
    { c with arch := { a with m := vputD a.m (bitsOf w 47 45) (BitVec.ofNat 256 bits) } }
  | .vxSplat => put fun _ => e.a.truncate 32
  | .vxFlags => { c with vxProg := 0, arch := a.setV vd all fun k => if k = 0 then c.vxProg.zeroExtend 32 else 0 }
  | _ => c

/-- A VX instruction starts; a rearrangement also completes (R141). -/
def State.startVx (s : State) (n : Core) (e : QEntry) (hw : HwFault) : State :=
  match e.op with
  | .vxChain => s.startChain n e hw
  | .vxPack =>
    let (s, ovf) := s.packRegs n e
    s.finish n e { Progress.zero with ovf := ovf } .ok
  | _ => (s.modCore n fun c => c.rearrange e).complete n e .ok

/-! ### Order -/

/-- The vector registers that a waiting or running VX instruction writes (R58, R127). -/
def CoreSt.vxWrites (c : CoreSt) (e : QEntry) : List Nat :=
  let vd := bitsOf e.w 47 43
  match e.op with
  | .vxChain =>
    let off := bitsOf e.w 43 21
    let head := Memory.nat c.arch.scratch off 8
    (chainOf (Memory.readN c.arch.scratch off (16 + 8 * chainStages head))).writes
  | .vxUnpk => (List.range ((packPer (bitsOf e.w 37 34)).getD 1)).map (vd + ·)
  | .vxMset => []
  | _ => [vd]

/-- The vector registers that an MV.DOT reads when it starts (R115). -/
def shankReads (e : QEntry) : List Nat :=
  (List.range (shankRows e)).map ((if bitOf e.w 39 then 16 else 0) + ·)

/-- Whether an MV.DOT issued earlier and not yet started reads a register that e writes (R58, R115). -/
def CoreSt.vxHeld (c : CoreSt) (e : QEntry) : Bool :=
  let ws := c.vxWrites e
  c.mv.waiting.any fun y => y.act && y.id < e.id && (shankReads y).any ws.contains

/-- Whether a VX instruction issued earlier and not yet ended writes a register that e reads (R58). -/
def CoreSt.mvHeld (c : CoreSt) (e : QEntry) : Bool :=
  let rs := shankReads e
  (c.vx.waiting.any fun y => y.act && y.id < e.id && (c.vxWrites y).any rs.contains) ||
    c.vx.running.any fun y => y.status.isNone && y.e.id < e.id && (chainOf y.g.desc).writes.any rs.contains

/-- Whether the VX instruction at the head of its queue may start: the one before it has written its last beat, the
registers it writes are free, and so are its rings, and the input of its first beat is present, or what its rings lack will
never come (R58, R127, R135, R148). -/
def CoreSt.vxMayStart (c : CoreSt) (e : QEntry) : Bool :=
  let free := c.vx.running.all fun x => x.status.isSome
  let rings := match e.op with
    | .vxChain =>
      let off := bitsOf e.w 43 21
      let desc := Memory.readN c.arch.scratch off (16 + 8 * chainStages (Memory.nat c.arch.scratch off 8))
      let ch := chainOf desc
      let inFree := fun (p : Nat × Nat × Nat) =>
        let r := c.arch.ringOf p.2.1
        p.1 != 0 || (r.cons.isNone && (ch.beatBytes p.2.2 0 ≤ r.avail || r.failed.isSome ||
          (ch.rows == 0 && p == ch.in0 && r.toEnd.isSome)))
      (chainCheck desc).isSome ||
        (inFree ch.in0 && inFree ch.in1 && (ch.dst.1 != 0 || (c.arch.ringOf ch.dst.2.1).prod.isNone) &&
          (ch.red == 0 || !ch.redRing || (c.arch.ringOf ch.redIdx).prod.isNone))
    | _ => true
  free && !c.vxHeld e && rings

/-- The vector engine goes on by one act of its first instruction that has not ended; late holds back one whose hardware is
slow. -/
def State.vxStep (s : State) (n : Core) (late : Bool) : Option State :=
  match (s.core n).vx.running.find? fun x => x.status.isNone with
  | none => none
  | some x => if late && x.hw.slow then none else s.chainStep n x

/-- A chain that has ended completes and signals (R135, R143). -/
def State.chainDone (s : State) (n : Core) : State :=
  match (s.core n).vx.running.find? fun x => x.status.isSome with
  | none => s
  | some x => s.retire n .vx x (x.status.getD .ok)

end Sys2Proof.Machine
end

