-- ==== Sys2Proof/Machine/NearMem.lean ====
section
/-! DEFINITION. Near-memory commands (R184, R185, R205, R264 to R276): command blocks and their checks, the share of
each stack, and completion. -/

namespace Sys2Proof.Machine

/-! ### Command blocks -/

/-- A near-memory instruction: sa in [43:38] holds the block offset (R205). -/
def State.issueNm (s : State) (n : Core) (w : BitVec 48) (f : NmOp) : State :=
  s.issueEngine n .st (.nm f) w (bitsOf w 43 38) 0 0
    (firstFail [(tailOk w && clear w 47 44 && clear w 37 21, cResv)])

/-- NM.OPT (R205, R270). -/
def execNmOpt (n : Core) (w : BitVec 48) (s : State) : Host.Outcome State Fault Refusal := .next (s.issueNm n w .opt)

/-- NM.GATHER (R205, R272). -/
def execNmGather (n : Core) (w : BitVec 48) (s : State) : Host.Outcome State Fault Refusal :=
  .next (s.issueNm n w .gather)

/-- NM.SCATTER (R205, R272). -/
def execNmScatter (n : Core) (w : BitVec 48) (s : State) : Host.Outcome State Fault Refusal :=
  .next (s.issueNm n w .scatter)

/-- NM.SHUFFLE (R205, R273). -/
def execNmShuffle (n : Core) (w : BitVec 48) (s : State) : Host.Outcome State Fault Refusal :=
  .next (s.issueNm n w .shuffle)

/-- NM.REDUCE (R205, R274). -/
def execNmReduce (n : Core) (w : BitVec 48) (s : State) : Host.Outcome State Fault Refusal :=
  .next (s.issueNm n w .reduce)

/-- NM.QUANT (R205, R275). -/
def execNmQuant (n : Core) (w : BitVec 48) (s : State) : Host.Outcome State Fault Refusal :=
  .next (s.issueNm n w .quant)

/-- NM.DEQUANT (R205, R275). -/
def execNmDequant (n : Core) (w : BitVec 48) (s : State) : Host.Outcome State Fault Refusal :=
  .next (s.issueNm n w .dequant)

/-- NM.AMAX (R205, R276). -/
def execNmAmax (n : Core) (w : BitVec 48) (s : State) : Host.Outcome State Fault Refusal := .next (s.issueNm n w .amax)

/-- A command block's fields and NM.OPT's parameters (R264, R269). -/
structure NmBlock where
  op : NmOp
  tid : BitVec 16
  ctx : BitVec 16
  fa : Nat
  fb : Nat
  rnd : Nat
  view : Bool
  iw : Nat
  p16 : Nat
  n : Nat
  a0 : Nat
  a1 : Nat
  a2 : Nat
  a3 : Nat
  px : Nat
  par : List Byte

/-- The fields of a block. -/
def nmBlock (op : NmOp) (b par : List Byte) : NmBlock :=
  let ctl := natAt b 5 1
  { op := op, tid := BitVec.ofNat 16 (natAt b 0 2), ctx := BitVec.ofNat 16 (natAt b 2 2), fa := natAt b 4 1 % 16
    fb := natAt b 4 1 / 16, rnd := ctl % 4, view := ctl / 4 % 2 == 1, iw := if ctl / 8 % 2 == 1 then 8 else 4
    p16 := natAt b 6 2, n := natAt b 8 8, a0 := natAt b 16 8, a1 := natAt b 24 8, a2 := natAt b 32 8
    a3 := natAt b 40 8, px := natAt b 48 8, par := par }

/-- Bytes of an element of a format, V4 as 1. -/
def fmtSize (f : Nat) : Nat :=
  match Fmt.ofCode f with
  | some g => (g.bits + 7) / 8
  | none => 1

/-- Bytes of a record (R272). -/
def NmBlock.recBytes (b : NmBlock) : Nat := 4 * b.p16

/-- Elements of a block of NM.QUANT and NM.DEQUANT (R265). -/
def NmBlock.blk (b : NmBlock) : Nat := 32 * 2 ^ b.p16

/-- Whether the optimizer has a second state (R265). -/
def NmBlock.adamw (b : NmBlock) : Bool := b.p16 == 0

/-- An F32 parameter of NM.OPT (R269). -/
def NmBlock.param (b : NmBlock) (off : Nat) : BitVec 32 := BitVec.ofNat 32 (natAt b.par off 4)

/-- Insole address of the ledger (R269). -/
def NmBlock.ledger (b : NmBlock) : Nat := natAt b.par 40 8

/-- F32, A32 or V16. -/
def f32orV16 (f : Nat) : Bool := f == 6 || f == 5 || f == 0

/-- The reserved and zero fields of a block and its ranges of values (R264 to R266). -/
def NmBlock.resvOk (b : NmBlock) (raw : List Byte) : Bool :=
  let noRnd := b.rnd == 0
  let noFmt := b.fa == 0 && b.fb == 0
  natAt raw 5 1 / 16 == 0 && b.n != 0 && b.n ≤ 2 ^ 40 &&
    match b.op with
    | .opt => b.fb == 0 && noRnd && b.p16 ≤ 2 && (b.adamw || b.a2 == 0) && natAt b.par 48 8 == 0 && natAt b.par 56 8 == 0
    | .gather => noFmt && noRnd && b.a3 == 0
    | .scatter => noFmt && noRnd && b.a3 == 0
    | .shuffle => noFmt && noRnd && b.a3 == 0 && b.px == 0
    | .reduce => 2 ≤ b.p16 && b.p16 ≤ 256 && b.a2 == 0 && b.a3 == 0
    | .quant => b.p16 ≤ 3 && (b.fb != 3 || b.p16 == 0) && b.a3 == 0 && b.px == 0
    | .dequant => b.p16 ≤ 3 && (b.fa != 3 || b.p16 == 0) && b.a3 == 0 && b.px == 0
    | .amax => b.fb == 0 && noRnd && b.p16 == 0 && b.a2 == 0 && b.a3 == 0 && b.px == 0

/-- The formats and roundings R265 allows. -/
def NmBlock.fmtOk (b : NmBlock) : Bool :=
  match b.op with
  | .opt => f32orV16 b.fa
  | .reduce => f32orV16 b.fa && f32orV16 b.fb && b.rnd != 3
  | .quant => (b.fa == 6 || b.fa == 0) && (b.fb == 1 || b.fb == 2 || b.fb == 3) && b.rnd ≤ 1
  | .dequant => (b.fa == 1 || b.fa == 2 || b.fa == 3) && (b.fb == 6 || b.fb == 0) && b.rnd != 3
  | .amax => b.fa == 0 || b.fa == 1 || b.fa == 2 || b.fa == 4 || b.fa == 5 || b.fa == 6
  | _ => true

/-- Alignment of addresses, of the partial stride and of the ledger (R27, R266). -/
def NmBlock.alignOk (b : NmBlock) : Bool :=
  let m := fun (a z : Nat) => a % z == 0
  match b.op with
  | .opt => m b.a0 2 && m b.a1 2 && (!b.adamw || m b.a2 2) && m b.a3 (fmtSize b.fa) && m b.ledger 64
  | .gather => m b.a0 b.iw && m b.a1 4 && m b.a2 4
  | .scatter => m b.a0 b.iw && m b.a1 4 && m b.a2 4
  | .shuffle => m b.a0 4 && m b.a1 4 && m b.a2 b.iw
  | .reduce => m b.a0 (fmtSize b.fa) && m b.a1 (fmtSize b.fb) && m b.px (fmtSize b.fa)
  | .quant => m b.a0 (fmtSize b.fa) && (b.fb != 3 || m b.a1 16)
  | .dequant => (b.fa != 3 || m b.a0 16) && m b.a2 (fmtSize b.fb)
  | .amax => m b.a0 (fmtSize b.fa) && m b.a1 4

/-- Bytes of n elements of a V8 or V4 array. -/
def NmBlock.elBytes (b : NmBlock) (f : Nat) : Nat := if f == 3 then (b.n + 1) / 2 else b.n

/-- The ranges a command reads and writes: address, bytes, whether it writes, and whether the window of R77 asks a read
range of it (R266, R270). -/
def NmBlock.ranges (b : NmBlock) : List (Nat × Nat × Bool) :=
  let blocks := (b.n + b.blk - 1) / b.blk
  match b.op with
  | .opt => [(b.a0, 2 * b.n, true), (b.a1, 2 * b.n, true)] ++ (if b.adamw then [(b.a2, 2 * b.n, true)] else []) ++
      [(b.a3, fmtSize b.fa * b.n, false), (b.ledger, 1536, true)]
  | .gather => [(b.a0, b.iw * b.n, false), (b.a1, b.recBytes * b.px, false), (b.a2, b.recBytes * b.n, true)]
  | .scatter => [(b.a0, b.iw * b.n, false), (b.a1, b.recBytes * b.n, false), (b.a2, b.recBytes * b.px, true)]
  | .shuffle => [(b.a0, b.recBytes * b.n, false), (b.a1, b.recBytes * b.n, true), (b.a2, b.iw * b.n, true)]
  | .reduce => ((List.range b.p16).map fun p => (b.a0 + p * b.px, fmtSize b.fa * b.n, false)) ++
      [(b.a1, fmtSize b.fb * b.n, true)]
  | .quant => [(b.a0, fmtSize b.fa * b.n, false), (b.a1, b.elBytes b.fb, true), (b.a2, blocks, true)]
  | .dequant => [(b.a0, b.elBytes b.fa, false), (b.a1, blocks, false), (b.a2, fmtSize b.fb * b.n, true)]
  | .amax => [(b.a0, fmtSize b.fa * b.n, false), (b.a1, 4, true)]

/-- Whether the bytes lo to hi − 1 are covered by the ranges of a list; fuel counts steps from range to range (R77). -/
def coveredBy (rs : List (Word × Word)) (lo hi fuel : Nat) : Bool :=
  match fuel with
  | 0 => lo ≥ hi
  | f + 1 =>
    if lo ≥ hi then true
    else
      match rs.find? fun r => r.1.toNat ≤ lo && lo < r.1.toNat + r.2.toNat with
      | none => false
      | some r => coveredBy rs (r.1.toNat + r.2.toNat) hi f

/-- Whether n bytes at a lie in the open region's read or write ranges (R77). -/
def CoreSt.covers (c : CoreSt) (write : Bool) (a n : Nat) : Bool :=
  match c.region with
  | none => true
  | some g => coveredBy (if write then g.wr else g.rd) a (a + n) 5

/-- Whether a range lies in the mapped Insole regions (R250, R266). -/
def State.inInsole (s : State) (a n : Nat) : Bool :=
  n == 0 || a + n ≤ 24 * (s.ins.gib + s.ins.lambdaOn.toNat) * 2 ^ 30

/-! ### Elements of the anchor operand -/

/-- Units of the anchor operand: its elements, records or, for NM.QUANT, blocks (R267, R275). -/
def NmBlock.anchorUnits (b : NmBlock) : Nat :=
  match b.op with
  | .scatter => b.px
  | .quant => (b.n + b.blk - 1) / b.blk
  | _ => b.n

/-- Address of unit j of the anchor operand (R267). -/
def NmBlock.anchorAt (b : NmBlock) (j : Nat) : Nat :=
  match b.op with
  | .opt => b.a0 + 2 * j
  | .gather => b.a2 + b.recBytes * j
  | .scatter => b.a2 + b.recBytes * j
  | .shuffle => b.a1 + b.recBytes * j
  | .reduce => b.a1 + fmtSize b.fb * j
  | .quant => b.a0 + fmtSize b.fa * b.blk * j
  | .dequant => b.a2 + fmtSize b.fb * j
  | .amax => b.a0 + fmtSize b.fa * j

/-- The stack that holds an Insole address. -/
def State.stackOf (s : State) (a : Nat) : Option StackId := (s.ins.place a).map Prod.fst

/-- Whether stack k holds part of the anchor operand. -/
def State.anchors (s : State) (b : NmBlock) (k : StackId) : Bool :=
  (List.range b.anchorUnits).any fun j => s.stackOf (b.anchorAt j) == some k

/-! ### Element arithmetic -/

/-- A stack's share as it goes: what it has formed, the state, the stack, the status it stops with, what the code is still to
find, and whether an operand lay on another stack (R267). -/
structure NmAcc extends NmSum where
  s : State
  k : StackId
  stop : Option Status
  e : Ecc
  far : Bool

/-- The stacks that hold n bytes at a. -/
def State.stacksOf (s : State) (a n : Nat) : List StackId :=
  (List.range ((a + n + 4095) / 4096 - a / 4096)).filterMap fun g => s.stackOf ((a / 4096 + g) * 4096)

/-- Whether n bytes at a can be reached by stack k: every other stack that holds some of them takes requests (R277). -/
def State.othersServe (s : State) (k : StackId) (a n : Nat) : Bool :=
  (s.stacksOf a n).all fun j => j == k || s.stack[j].serves

/-- Whether some of n bytes at a lie on another stack than k. -/
def State.isFar (s : State) (k : StackId) (a n : Nat) : Bool := (s.stacksOf a n).any fun j => j != k

/-- Read an operand's bytes: E or E+1. A poisoned line, or one whose error the code does not correct, stops the stack, and so
does a stack in reset that holds some of them (R254, R260, R277). -/
def NmAcc.read (r : NmAcc) (next : Bool) (a n : Nat) : NmAcc × List Byte :=
  if r.stop.isSome then (r, [])
  else if !r.s.othersServe r.k a n then ({ r with stop := some .refusedReset }, [])
  else
    let (s, st, bs) := r.s.readMem next a n r.e
    let left := r.s.eccLeft next (r.s.wordsOf next a n) r.e
    ({ r with s := s, e := left, far := r.far || s.isFar r.k a n, stop := if st = .ok then none else some st }, bs)

/-- Write bytes, for the step in which the command was accepted (R255); a partial write into a poisoned line is stored and
makes the share end with ECC_UNCORRECTABLE, and a stack in reset that holds some of them stops it (R260, R277). -/
def NmAcc.write (r : NmAcc) (a : Nat) (bs : List Byte) : NmAcc :=
  if r.stop.isSome then r
  else if !r.s.othersServe r.k a bs.length then { r with stop := some .refusedReset }
  else
    let cells := bs.zipIdx.map fun x => (a + x.2, x.1)
    let left := r.s.eccLeft true (r.s.partWords cells) r.e
    let (s, bad) := (r.s.maskedErrors cells r.e).writeNow cells
    { r with s := s, e := left, part := r.part || bad, far := r.far || s.isFar r.k a bs.length }

/-- An element as an F32 word: V16 and A32 widen exactly. -/
def wordF (f : Nat) (bs : List Byte) : BitVec 32 :=
  match Fmt.ofCode f with
  | some g => exactF32 (decodeNum g (leNat bs))
  | none => 0

/-- sgn: ±0 gives +0, NaN gives NaN (R270). -/
def sgnF (x : BitVec 32) : BitVec 32 :=
  if isNanF x then nanF else if (f32 x).isZero then 0 else if x.msb then 0xBF800000 else 0x3F800000

/-- The new weight, first state, second state and update of one element (R270): optimizer, parameters, gradient after
gscale, weight, first and second state. -/
def optStep (b : NmBlock) (g w m v : BitVec 32) : BitVec 32 × BitVec 32 × BitVec 32 × BitVec 32 :=
  let p := b.param
  let lr := p 0
  let wd := p 4
  match b.p16 with
  | 0 =>
    let m := fmaF (p 8) m (mulF (p 12) g)
    let v := fmaF (p 16) v (mulF (p 20) (mulF g g))
    let d := addF (sqrtF (mulF v (p 32))) (p 24)
    let u := mulF lr (addF (divF (mulF m (p 28)) d) (mulF wd w))
    (subF w u, m, v, u)
  | 1 =>
    let k := fmaF (p 8) m (mulF (p 12) g)
    let u := mulF lr (addF (sgnF k) (mulF wd w))
    (subF w u, fmaF (p 16) m (mulF (p 20) g), v, u)
  | _ =>
    let m := fmaF (p 8) m g
    let u := mulF lr (addF m (mulF wd w))
    (subF w u, m, v, u)

/-- A draw of a near-memory command on a stack (R181, R182). -/
def Stack.drawOf (k : Stack) (b : NmBlock) (sub j : Nat) : BitVec 16 := draw k.srkey k.srepoch b.ctx b.tid 4 sub j

/-- Whether an F32 word is finite. -/
def finiteF (x : BitVec 32) : Bool := (f32 x).isFin

/-- NM.OPT on element j (R177, R270, R271). -/
def NmAcc.opt (r : NmAcc) (k : StackId) (b : NmBlock) (j : Nat) : NmAcc :=
  let (r, gb) := r.read b.view (b.a3 + fmtSize b.fa * j) (fmtSize b.fa)
  let (r, wb) := r.read false (b.a0 + 2 * j) 2
  let (r, mb) := r.read false (b.a1 + 2 * j) 2
  let (r, vb) := if b.adamw then r.read false (b.a2 + 2 * j) 2 else (r, [])
  if r.stop.isSome then r
  else
    let x := r.s.stack[k]
    let g := mulF (b.param 36) (wordF b.fa gb)
    let (w, m, v, u) := optStep b g (wordF 0 wb) (wordF 0 mb) (wordF 0 vb)
    let st := fun (sub : Nat) (y : BitVec 32) => (roundTo .v16 (.sr (x.drawOf b sub j)) (f32 y)).1
    let (w1, m1, v1) := (st 0 w, st 1 m, st 2 v)
    let r := (r.write (b.a0 + 2 * j) (leBytes 2 w1)).write (b.a1 + 2 * j) (leBytes 2 m1)
    let r := if b.adamw then r.write (b.a2 + 2 * j) (leBytes 2 v1) else r
    let inf := fun (y : Nat) => !(decodeNum .v16 y).isFin
    let bads := b2n (!finiteF g) + b2n (inf w1) + b2n (inf m1) + b2n (b.adamw && inf v1)
    { r with count := r.count + bads, ws := r.ws ++ [exactF32 (decodeNum .v16 w1)], gs := r.gs ++ [g]
             us := r.us ++ [u], badG := r.badG || !finiteF g
             badW := r.badW || inf w1 || inf m1 || (b.adamw && inf v1) }

/-- NM.GATHER on entry i (R272). -/
def NmAcc.gather (r : NmAcc) (b : NmBlock) (i : Nat) : NmAcc :=
  let (r, ib) := r.read b.view (b.a0 + b.iw * i) b.iw
  if r.stop.isSome then r
  else if leNat ib ≥ b.px then
    let r := r.write (b.a2 + b.recBytes * i) (List.replicate b.recBytes 0)
    { r with count := r.count + 1 }
  else
    let (r, bs) := r.read b.view (b.a1 + b.recBytes * leNat ib) b.recBytes
    r.write (b.a2 + b.recBytes * i) bs

/-- NM.SCATTER of source record i to the table record at an address (R272). -/
def NmAcc.scatter (r : NmAcc) (b : NmBlock) (a i : Nat) : NmAcc :=
  let (r, bs) := r.read b.view (b.a1 + b.recBytes * i) b.recBytes
  r.write a bs

/-- The sort key of source record i: the value draw forms before its final shift (R182, R273). -/
def shuffleKey (k : Stack) (b : NmBlock) (i : Nat) : Nat :=
  let c0 : Word := ((k.srepoch.zeroExtend 64) <<< 32) ||| ((b.ctx.zeroExtend 64) <<< 16) ||| b.tid.zeroExtend 64
  let c1 : Word := ((4 : Word) <<< 60) ||| ((0xFFF : Word) <<< 48) ||| BitVec.ofNat 64 i
  (mix64 (mix64 (k.srkey ^^^ c0) ^^^ c1 ^^^ 0x9E3779B97F4A7C15)).toNat

/-- Put a key and its record into a list ranked by key, then by record. -/
def rankInsert (x : Nat × Nat) (l : List (Nat × Nat)) : List (Nat × Nat) :=
  match l with
  | [] => [x]
  | y :: r => if x.1 < y.1 || (x.1 == y.1 && x.2 < y.2) then x :: y :: r else y :: rankInsert x r

/-- Source index of every rank (R273). -/
def shuffleOrder (k : Stack) (b : NmBlock) : List Nat :=
  (((List.range b.n).map fun i => (shuffleKey k b i, i)).foldl (fun l x => rankInsert x l) []).map Prod.snd

/-- NM.SHUFFLE on destination position p (R273). -/
def NmAcc.shuffle (r : NmAcc) (b : NmBlock) (order : List Nat) (p : Nat) : NmAcc :=
  let i := order.getD p 0
  let (r, bs) := r.read b.view (b.a0 + b.recBytes * i) b.recBytes
  (r.write (b.a1 + b.recBytes * p) bs).write (b.a2 + b.iw * p) (leBytes b.iw i)

/-- NM.REDUCE on element j; an exact zero is +0 (R33, R274). -/
def NmAcc.reduce (r : NmAcc) (k : StackId) (b : NmBlock) (j : Nat) : NmAcc :=
  let z := fmtSize b.fa
  let (r, t) := (List.range b.p16).foldl (fun (acc : NmAcc × BitVec 32) p =>
    let (r, bs) := acc.1.read b.view (b.a0 + p * b.px + z * j) z
    let x := wordF b.fa bs
    (r, if p = 0 then x else addF acc.2 x)) (r, 0)
  match Fmt.ofCode b.fb with
  | none => r
  | some f =>
    let x := if (f32 t).isZero then .zero else f32 t
    let y := (roundTo f (Round.ofCode b.rnd (r.s.stack[k].drawOf b 0 j)) x).1
    r.write (b.a1 + fmtSize b.fb * j) (leBytes (fmtSize b.fb) y)

/-- Largest element magnitude a scale is computed for (R37, R275). -/
def quantTop (f : Nat) : Nat := if f == 3 then 6 else if f == 1 then 448 else 57344

/-- An element divided by a block scale and converted (R37, R275). -/
def quantElem (f s : Nat) (r : Round) (x : Num) : Nat :=
  if s == 255 then 0
  else
    let q := x.scale (127 - (s : Int))
    if f == 3 then (roundV4 r q).1
    else
      match Fmt.ofCode f with
      | some g => (roundTo g r q).1
      | none => 0

/-- NM.QUANT on block q. DESIGN CHOICE: an odd number of V4 elements leaves zeros in the high four bits of the last byte
(R27, R275, log 118). -/
def NmAcc.quant (r : NmAcc) (k : StackId) (b : NmBlock) (q : Nat) : NmAcc :=
  let z := fmtSize b.fa
  let j0 := b.blk * q
  let m := min b.blk (b.n - j0)
  let (r, bs) := r.read b.view (b.a0 + z * j0) (z * m)
  if r.stop.isSome then r
  else
    let xs := (List.range m).map fun i => f32 (wordF b.fa ((bs.drop (z * i)).take z))
    let s := scaleOf (quantTop b.fb) (xs.foldl maxMag .zero)
    let el := fun (i : Nat) =>
      quantElem b.fb s (Round.ofCode b.rnd (r.s.stack[k].drawOf b 0 (j0 + i))) (xs.getD i .zero)
    let out := if b.fb == 3 then
        (List.range ((m + 1) / 2)).map fun i =>
          BitVec.ofNat 8 (el (2 * i) + 16 * (if 2 * i + 1 < m then el (2 * i + 1) else 0))
      else (List.range m).map fun i => BitVec.ofNat 8 (el i)
    let r := (r.write (b.a1 + (if b.fb == 3 then j0 / 2 else j0)) out).write (b.a2 + q) [BitVec.ofNat 8 s]
    { r with count := r.count + b2n (s == 255) }

/-- NM.DEQUANT on element j (R275). -/
def NmAcc.dequant (r : NmAcc) (k : StackId) (b : NmBlock) (j : Nat) : NmAcc :=
  let (r, eb) := r.read b.view (b.a0 + (if b.fa == 3 then j / 2 else j)) 1
  let (r, sb) := r.read b.view (b.a1 + j / b.blk) 1
  let el := leNat eb
  let x := match Fmt.ofCode b.fa with
    | some f =>
      if leNat sb == 255 then Num.nan
      else (decodeNum f (if b.fa == 3 then el / 16 ^ (j % 2) % 16 else el)).scale ((leNat sb : Int) - 127)
    | none => .nan
  match Fmt.ofCode b.fb with
  | none => r
  | some f =>
    let y := (roundTo f (Round.ofCode b.rnd (r.s.stack[k].drawOf b 0 j)) x).1
    r.write (b.a2 + fmtSize b.fb * j) (leBytes (fmtSize b.fb) y)

/-- NM.AMAX on element j (R276). -/
def NmAcc.amaxOf (r : NmAcc) (b : NmBlock) (j : Nat) : NmAcc :=
  let z := fmtSize b.fa
  let (r, bs) := r.read b.view (b.a0 + z * j) z
  if r.stop.isSome then r
  else
    let x := wordF b.fa bs
    { r with amax := maxF r.amax (if isNanF x then nanF else x &&& 0x7FFFFFFF) }

/-- The units that a stack takes, by their anchor addresses, in ascending stack offset: those of the anchor operand it holds,
and for NM.SCATTER the entries whose records it holds, those of one record in ascending order, for which it reads the whole
index list first (R267, R272; DEDUCED, log 129). -/
def NmAcc.units (r : NmAcc) (b : NmBlock) : NmAcc × List (Nat × Nat) :=
  let mine := fun (a : Nat) => r.s.stackOf a == some r.k
  if b.op == .scatter then
    let (r, ib) := r.read b.view b.a0 (b.iw * b.n)
    let entries := (List.range b.n).filterMap fun i =>
      let x := leNat ((ib.drop (b.iw * i)).take b.iw)
      let a := b.a2 + b.recBytes * x
      if x < b.px && mine a then some (a, i) else none
    (r, if r.stop.isSome then [] else entries.foldl (fun l x => rankInsert x l) [])
  else (r, ((List.range b.anchorUnits).map fun j => (b.anchorAt j, j)).filter fun x => mine x.1)

/-- One unit of a command: its anchor address and number. -/
def NmAcc.unit (r : NmAcc) (b : NmBlock) (order : List Nat) (x : Nat × Nat) : NmAcc :=
  let k := r.k
  let j := x.2
  if r.stop.isSome then r
  else
    match b.op with
    | .opt => r.opt k b j
    | .gather => r.gather b j
    | .scatter => r.scatter b x.1 j
    | .shuffle => r.shuffle b order j
    | .reduce => r.reduce k b j
    | .quant => r.quant k b j
    | .dequant => r.dequant k b j
    | .amax => r.amaxOf b j

/-! ### The norm ledger (R184, R185) -/

/-- One block of 256 squares, summed in the tree's order (R136, R185). -/
def squareSum (xs : List (BitVec 32)) : BitVec 32 :=
  (redTree 1 ((List.range 256).map fun j =>
    let x := xs.getD j 0
    if finiteF x then mulF x x else 0) 8).1

/-- Σ x² as hi and lo (R185); fuel counts the blocks. -/
def normSum (xs : List (BitVec 32)) (hi lo : BitVec 32) (fuel : Nat) : BitVec 32 × BitVec 32 :=
  match fuel with
  | 0 => (hi, lo)
  | k + 1 =>
    if xs.isEmpty then (hi, lo)
    else
      let y := squareSum (xs.take 256)
      let t := addF hi y
      let e := if (f32 hi).abs.lt (f32 y).abs then addF (subF y t) hi else addF (subF hi t) y
      normSum (xs.drop 256) t (addF lo e) k

/-- The 8 bytes of a sum: hi, then lo (R184). -/
def normBytes (xs : List (BitVec 32)) : List Byte :=
  let (hi, lo) := normSum xs 0 0 (xs.length + 1)
  leBytes 4 hi.toNat ++ leBytes 4 lo.toNat

/-- A ledger entry of stack k (R184, R271). -/
def ledgerEntry (b : NmBlock) (k : StackId) (epoch : BitVec 32) (r : NmSum) : List Byte :=
  let n := r.ws.length
  let flags := b2n (n != 0) + 2 * b2n r.badG + 4 * b2n r.badW
  let gmax := (r.gs.filter finiteF).foldl (fun m g => maxF m (g &&& 0x7FFFFFFF)) (0 : BitVec 32)
  leBytes 2 b.tid.toNat ++ leBytes 1 k.val ++ leBytes 1 flags ++ leBytes 4 epoch.toNat ++ leBytes 8 n ++
    normBytes r.ws ++ normBytes r.gs ++ normBytes r.us ++ leBytes 4 gmax.toNat ++ leBytes 4 r.count ++
    List.replicate 16 0

/-! ### Shares and completion -/

/-- Stack k goes on with its share of an entry, by one granule of the anchor operand or to its end, where NM.OPT's ledger
entry follows; the answer is the share and the entry as it then stands (R267, R271, R277). e: what the code finds. -/
def State.runShare (s : State) (k : StackId) (x : NmEntry) (whole : Bool) (e : Ecc) : NmAcc × NmEntry :=
  let b := nmBlock x.op x.block x.params
  let r : NmAcc := { x.sum with s := s, k := k, stop := x.stop, e := e, far := false }
  let (r, us) := r.units b
  let left := us.filter fun u => x.upto ≤ u.1
  let us := match left with
    | [] => []
    | u :: _ => if whole then left else left.filter fun v => v.1 / 4096 == u.1 / 4096
  let order := if b.op == .shuffle then shuffleOrder s.stack[k] b else []
  let r := us.foldl (fun r u => r.unit b order u) r
  let r := if b.op == .opt && r.stop.isNone && whole then
      r.write (b.ledger + 64 * k.val) (ledgerEntry b k s.stack[k].srepoch r.toNmSum)
    else r
  let upto := match us.getLast? with
    | some u => (u.1 / 4096 + 1) * 4096
    | none => x.upto
  (r, { x with upto := upto, sum := r.toNmSum, stop := r.stop })

/-- Whether a command writes granules of the epoch ranges that stack k holds (R253, R255). -/
def State.writesEpoch (s : State) (k : StackId) (x : NmEntry) : Bool :=
  ((nmBlock x.op x.block x.params).ranges.filter fun r => r.2.2).any fun r =>
    r.2.1 != 0 && s.ins.eprOn.toList.any fun e =>
      let lo := max e.base.toNat (r.1 / 4096)
      let hi := min (e.base.toNat + e.count.toNat) ((r.1 + r.2.1 - 1) / 4096 + 1)
      decide (lo < hi) && decide (s.ins.below k lo < s.ins.below k hi)

/-- Whether a command may run: every stack whose epoch granules it writes has acted on the decisions given before the command
was accepted, so that its writes go to the next step (R255). -/
def State.mayRun (s : State) (x : NmEntry) : Bool :=
  (List.finRange 24).all fun j => decide (x.no ≤ s.stepOf j) || !s.writesEpoch j x

/-- A stack's request for a MEM block (R226 to R228). -/
def stackBlock (k : StackId) : BlockWait := { user := .stack k, owner := 16 + k.val }

/-- Stack k goes on with the command at the front of its queue, and f takes what it answers. Operands on other stacks move
through the Welt in a MEM block, without which the stack waits (R15, R226, R229, R267). -/
def State.goOn (s : State) (k : StackId) (x : NmEntry) (whole : Bool) (e : Ecc) (f : NmAcc × NmEntry → State) : State :=
  if !(s.fastOn && s.stack[k].serves && s.mayRun x) then s
  else if (s.runShare k x whole e).1.far then s.throughWelt .mem (stackBlock k) 1 fun s => f (s.runShare k x whole e)
  else f (s.runShare k x whole e)

/-- The started command an entry belongs to. -/
def CoreSt.nmRun (c : CoreSt) (id : Nat) : Option RunEntry := c.stq.running.find? fun x => x.e.id == id && x.e.op.isNm

/-- Whether a stack still holds an entry of a command. -/
def State.nmLeft (s : State) (n : Core) (id : Nat) : Bool :=
  s.stack.toList.any fun k => k.queue.any fun x => x.core == n && x.id == id

/-- Entries out of range, counted once over the index list (R272). -/
def State.outOfRange (s : State) (b : NmBlock) : Nat :=
  if b.op == .scatter then
    ((List.range b.n).filter fun i => leNat (s.bytes b.view (b.a0 + b.iw * i) b.iw) ≥ b.px).length
  else 0

/-- Write bytes of a command's result: how the write ends. fresh: the command has reached no stack, so the bytes belong to the
present step (R255, R260, R277). -/
def State.nmWrite (s : State) (fresh : Bool) (a : Nat) (bs : List Byte) : State × Status :=
  if !s.serves a then (s, .refusedReset)
  else
    let cells := bs.zipIdx.map fun x => (a + x.2, x.1)
    let (s, bad) := if fresh then s.writeCells cells else s.writeNow cells
    (s, if bad then .eccUncorrectable else .ok)

/-- A command completes: AMAX writes its value and NM.OPT the empty ledger entries, result is written, and the status is
the largest that the stacks and these writes ended with, or ECC_UNCORRECTABLE where result covered a poisoned word in part
(R267, R271, R276, R357, R518). -/
def State.nmFinish (s : State) (n : Core) (x : RunEntry) (fresh : Bool) : State :=
  let g := x.g
  let b := match x.e.op with
    | .nm f => nmBlock f g.desc g.got
    | _ => nmBlock .amax g.desc g.got
  let st := g.fail.getD .ok
  let join := fun (x y : Status) => if y = .ok then x else if x = .ok then y else x.worse y
  let (s, st) := if b.op == .amax && st == .ok then s.nmWrite fresh b.a1 (leBytes 4 (g.acc.getD 0).toNat) else (s, st)
  let (s, st) := if b.op == .opt then
      (List.range 24).foldl (fun (acc : State × Status) i =>
        let s := acc.1
        let k : StackId := Fin.ofNat 24 i
        if s.anchors b k then acc
        else
          let r := s.nmWrite fresh (b.ledger + 64 * i) (ledgerEntry b k s.stack[k].srepoch {})
          (r.1, join acc.2 r.2)) (s, st)
    else (s, st)
  let count := g.row + s.outOfRange b
  let (s, part) := s.writeScratch n (x.e.a.toNat + 56) (leBytes 8 count)
  let s := s.modCore n fun c =>
    { c with updates := if b.op == .opt && count != 0 then c.updates ||| 1 else c.updates
             stq := { c.stq with running := c.stq.running.filter fun y => y.e.id != x.e.id } }
  s.complete n x.e (if st = .ok && part then .eccUncorrectable else st)

/-- Finish a command whose stacks have all reported. -/
def State.nmSettle (s : State) (n : Core) (id : Nat) (fresh : Bool) : State :=
  if s.nmLeft n id then s
  else
    match (s.core n).nmRun id with
    | none => s
    | some x => s.nmFinish n x fresh

/-- A stack's report of its share joins the command, its entry leaves the stack, and the command may finish (R267). -/
def State.nmReport (s : State) (k : StackId) (x : NmEntry) (st : Status) (count : Nat) (amax : BitVec 32) : State :=
  let s := s.modStack k fun y => { y with queue := y.queue.filter fun z => !(z.core == x.core && z.id == x.id) }
  let s := s.modCore x.core fun c => c.modRun .st x.id fun y =>
    { y with g := { y.g with row := y.g.row + count, acc := some (maxF (y.g.acc.getD 0) amax)
                             fail := if st = .ok then y.g.fail else some ((y.g.fail.getD .ok).worse st) } }
  s.nmSettle x.core x.id false

/-- A stack has finished its share of the command at the front of its queue and reports (R267). -/
def execNmStackReport (k : StackId) (e : Ecc) (s : State) : Host.Outcome State Fault Refusal :=
  .next <|
    match s.stack[k].queue with
    | [] => s
    | x :: _ => s.goOn k x true e fun r =>
        r.1.s.nmReport k x (r.1.stop.getD (if r.1.part then .eccUncorrectable else .ok)) r.1.count r.1.amax

/-- A stack has done one more granule of its share of the command at the front of its queue, and reports progress (R267). -/
def execStackProgressReport (x : StackAct) (s : State) : Host.Outcome State Fault Refusal :=
  .next <|
    match s.stack[x.k].queue with
    | [] => s
    | q :: rest => s.goOn x.k q false x.ecc fun r => r.1.s.modStack x.k fun y => { y with queue := r.2 :: rest }

/-- A stack silent beyond the issuing core's time limit: its share of the core's oldest command there ends with TIMEOUT
(R163, R267). -/
def execNmStackSilenceTimeout (n : Core) (k : StackId) (s : State) : Host.Outcome State Fault Refusal :=
  .next <|
    match s.stack[k].queue.find? fun x => x.core == n with
    | none => s
    | some x => if s.fastOn then s.nmReport k x .timeout 0 0 else s

/-- The checks of a command at its start, after its block is read (R266). -/
def State.nmChecks (s : State) (n : Core) (b : NmBlock) (raw : List Byte) : List (Bool × BitVec 8) :=
  let c := s.core n
  let rs := b.ranges
  [(b.resvOk raw, cResv), (b.fmtOk, cFmt), (b.alignOk, cAlign), (rs.all fun r => s.inInsole r.1 r.2.1, cSpace),
   (rs.all fun r => c.covers r.2.2 r.1 r.2.1, cWindow)]

/-- A near-memory command starts: its checks, then an entry in the queue of every stack of its anchor operand; a stack
that takes no requests answers REFUSED_RESET at once. The answer is none where a stack has no free entry (R203, R264 to
R267). ecc: what the code finds in the block. -/
def State.startNm (s : State) (n : Core) (e : QEntry) (f : NmOp) (ecc : Ecc) : Option State :=
  let off := e.a.toNat
  match firstFail [(off % 64 == 0, cAlign), (off + 64 ≤ scratchSize, cSpace)] with
  | some k => some (s.coreFault n k e.pc)
  | none =>
    let (t, st, raw) := s.readDesc n e.id off 64 ecc
    if st != .ok then some (t.complete n e st)
    else
      let px := natAt raw 48 8
      let opt := f == .opt
      match firstFail [(!opt || px % 64 == 0, cAlign), (!opt || px + 64 ≤ scratchSize, cSpace)] with
      | some k => some (s.coreFault n k e.pc)
      | none =>
        let (t, st, par) := if opt then t.readDesc n e.id px 64 .clean else (t, .ok, [])
        let b := nmBlock f raw par
        if st != .ok then some (t.complete n e st)
        else
          match firstFail (s.nmChecks n b raw) with
          | some k => some (t.coreFault n k e.pc)
          | none =>
            let ks := (List.finRange 24).filter fun k => s.anchors b k
            if ks.any fun k => s.stack[k].queue.length ≥ 8 then none
            else
              let up := ks.filter fun k => s.stack[k].serves
              let x : NmEntry := { core := n, uepoch := s.clk.coreEpoch[n], id := e.id, op := f, block := raw
                                   params := par, no := s.step.given }
              let t := up.foldl (fun s k => s.modStack k fun y => { y with queue := y.queue ++ [x] }) t
              let g := { Progress.zero with desc := raw, got := par
                                            fail := if up.length < ks.length then some .refusedReset else none }
              some ((t.addRun n .st e HwFault.sound g).nmSettle n e.id true)

end Sys2Proof.Machine
end

