-- ==== Sys2Proof/Machine/Schedule.lean ====
section
/-! DEFINITION. The schedules of the collectives (R337 to R346): phases along the axes, the chunks a member receives and
sends in each, what they carry, where they land, and the end of a collective. Steps count from 1 (R339); a phase of a
member begins when the one before it has all its chunks. -/

namespace Sys2Proof.Machine

/-! ### Members and phases -/

/-- A member's place: group sizes, positions, how many axes are selected, and their numbers (R330). -/
structure Seat where
  g0 : Nat
  p0 : Nat
  g1 : Nat
  p1 : Nat
  axes : Nat
  no0 : Nat
  no1 : Nat

/-- This part's place in an active collective. -/
def State.seat (s : State) (a : Active) : Seat :=
  match s.collAxes a with
  | [] => { g0 := 1, p0 := 0, g1 := 1, p1 := 0, axes := 0, no0 := 0, no1 := 1 }
  | [x] => { g0 := x.g, p0 := s.posOn x, g1 := 1, p1 := 0, axes := 1, no0 := x.no, no1 := 1 }
  | x :: y :: _ => { g0 := x.g, p0 := s.posOn x, g1 := y.g, p1 := s.posOn y, axes := 2, no0 := x.no, no1 := y.no }

/-- The total group (R330). -/
def Seat.g (l : Seat) : Nat := l.g0 * l.g1
/-- The member index (R330). -/
def Seat.m (l : Seat) : Nat := l.p0 + l.g0 * l.p1

/-- What a phase does: reduce, gather, broadcast, or exchange (R337 to R340, R346). -/
inductive PhaseKind where
  | red | gath | bc | swap
deriving DecidableEq, Repr

/-- A phase: what it does, whether it runs on the second selected axis, that axis's number, size and own position. -/
structure Phase where
  kind : PhaseKind
  second : Bool
  no : Nat
  g : Nat
  p : Nat

/-- The phases of a kind, axis 0 first. -/
def Seat.both (l : Seat) (k : PhaseKind) : List Phase :=
  [{ kind := k, second := false, no := l.no0, g := l.g0, p := l.p0 }] ++
    (if l.axes = 2 then [{ kind := k, second := true, no := l.no1, g := l.g1, p := l.p1 }] else [])

/-- The phases of a collective in order; gathers run axis 1 first, and a count of 0 moves no chunk (R337 to R340, R346,
R523). -/
def Active.phases (a : Active) (l : Seat) : List Phase :=
  if a.count = 0 then []
  else
    match a.op with
    | .ar => l.both .red ++ (l.both .gath).reverse
    | .rs => l.both .red
    | .ag => (l.both .gath).reverse
    | .bc => l.both .bc
    | .a2a => l.both .swap
    | .bar => []
    | .vote => []

/-! ### Slices and chunks -/

/-- Bytes of one element. -/
def Active.es (a : Active) : Nat := (((Fmt.ofCode a.efmt.toNat).map Fmt.bits).getD 8) / 8

/-- Elements of block m of g (R337). -/
def blockElems (count g m : Nat) : List Nat :=
  let lo := m * count / g
  (List.range ((m + 1) * count / g - lo)).map fun i => lo + i

/-- How many elements block m has. -/
def blockLen (count g m : Nat) : Nat := (m + 1) * count / g - m * count / g

/-- The elements of the slice that position j of a phase owns (R337). -/
def Seat.slice (l : Seat) (count : Nat) (second : Bool) (j : Nat) : List Nat :=
  if second then blockElems count l.g (l.p0 + l.g0 * j)
  else (List.range l.g1).flatMap fun q => blockElems count l.g (j + l.g0 * q)

/-- How many elements a slice has. -/
def Seat.sliceLen (l : Seat) (count : Nat) (second : Bool) (j : Nat) : Nat :=
  if second then blockLen count l.g (l.p0 + l.g0 * j)
  else ((List.range l.g1).map fun q => blockLen count l.g (j + l.g0 * q)).sum

/-- Bytes of one member's piece of an exchange: cap entries, then the count of those that are valid. -/
def Active.pieceBytes (a : Active) : Nat := a.cap * a.width * a.es + 4

/-- Bytes of what a phase moves for owner j (R337 to R340, R346). -/
def Phase.bytes (ph : Phase) (a : Active) (l : Seat) (j : Nat) : Nat :=
  match ph.kind with
  | .red => 4 * l.sliceLen a.count ph.second j
  | .gath =>
    if a.op == .ar then a.es * l.sliceLen a.count ph.second j
    else a.es * a.count * (if ph.second then 1 else l.g1)
  | .bc => a.es * a.count
  | .swap => a.pieceBytes * (if ph.second then l.g0 else l.g1)

/-- Chunks of n bytes. -/
def chunksOf (n : Nat) : Nat := (n + 4095) / 4096

/-- Chunks of k that ride the + ring, or the − ring (R337). -/
def halfChunks (k : Nat) (minus : Bool) : Nat := if minus then k / 2 else (k + 1) / 2

/-- The chunk that index idx of a direction is, of k. -/
def realChunk (k : Nat) (minus : Bool) (idx : Nat) : Nat := if minus then (k + 1) / 2 + idx else idx

/-- Chunk c of a byte string. -/
def chunkAt (bs : List Byte) (c : Nat) : List Byte := (bs.drop (4096 * c)).take 4096

/-- Hops from the root on a phase axis, in a direction (R340). -/
def Phase.fromRoot (ph : Phase) (a : Active) (l : Seat) (minus : Bool) : Nat :=
  let r := if ph.second then a.root / l.g0 else a.root % l.g0
  if minus then (r + ph.g - ph.p) % ph.g else (ph.p + ph.g - r) % ph.g

/-- Whether this member takes part in a phase of a broadcast: in axis 0 only at the root's p1 (R340). -/
def Phase.takesPart (ph : Phase) (a : Active) (l : Seat) : Bool :=
  ph.kind != .bc || ph.second || l.p1 == a.root / l.g0

/-- The steps at which a member receives in a direction. -/
def Phase.recvSteps (ph : Phase) (a : Active) (l : Seat) (minus : Bool) : List Nat :=
  match ph.kind with
  | .bc => if ph.takesPart a l && ph.fromRoot a l minus != 0 then [ph.fromRoot a l minus] else []
  | _ => (List.range (ph.g - 1)).map (· + 1)

/-- The steps at which it sends. -/
def Phase.sendSteps (ph : Phase) (a : Active) (l : Seat) (minus : Bool) : List Nat :=
  match ph.kind with
  | .bc => if ph.takesPart a l && ph.fromRoot a l minus + 1 < ph.g then [ph.fromRoot a l minus + 1] else []
  | _ => (List.range (ph.g - 1)).map (· + 1)

/-- The owner of what it sends at a step: the slice on its way, the piece, or in an exchange the receiver (R337 to R340,
R346). -/
def Phase.sendOwner (ph : Phase) (minus : Bool) (step : Nat) : Nat :=
  match ph.kind with
  | .red => ahead ph.g ph.p (!minus) step
  | .gath => ahead ph.g ph.p (!minus) (step - 1)
  | .bc => 0
  | .swap => ahead ph.g ph.p minus step

/-- The owner of what it receives at a step: in an exchange the sender. -/
def Phase.recvOwner (ph : Phase) (minus : Bool) (step : Nat) : Nat :=
  match ph.kind with
  | .red => ahead ph.g ph.p (!minus) (step + 1)
  | .gath => ahead ph.g ph.p (!minus) step
  | .bc => 0
  | .swap => ahead ph.g ph.p (!minus) step

/-- The key of a chunk of a phase. -/
def Phase.key (ph : Phase) (minus : Bool) (step idx : Nat) : ChunkKey :=
  { ctrl := false, gather := ph.kind == .gath, ph := ph.no == 1, dir := minus, step := step, idx := idx, peer := 0 }

/-- Keys of a direction, by the steps and owners given. -/
def Phase.keys (ph : Phase) (a : Active) (l : Seat) (minus : Bool) (steps : List Nat) (owner : Nat → Nat) : List ChunkKey :=
  steps.flatMap fun t => (List.range (halfChunks (chunksOf (ph.bytes a l (owner t))) minus)).map fun i => ph.key minus t i

/-- The chunks a member receives in a phase and direction, in schedule order. -/
def Phase.recvKeys (ph : Phase) (a : Active) (l : Seat) (minus : Bool) : List ChunkKey :=
  ph.keys a l minus (ph.recvSteps a l minus) (ph.recvOwner minus)

/-- The chunks it sends. -/
def Phase.sendKeys (ph : Phase) (a : Active) (l : Seat) (minus : Bool) : List ChunkKey :=
  ph.keys a l minus (ph.sendSteps a l minus) (ph.sendOwner minus)

/-! ### What chunks carry -/

/-- Every value of a list, where all are there. -/
def allSome {α : Type} (xs : List (Option α)) : Option (List α) :=
  match xs with
  | [] => some []
  | none :: _ => none
  | some x :: r => (allSome r).map (x :: ·)

/-- The bytes of a chunk received. -/
def Active.data (a : Active) (k : ChunkKey) : Option (List Byte) := (a.got.find? fun g => g.key == k).map Got.data

/-- The F32 words of a byte string. -/
def wordsOf (n : Nat) (bs : List Byte) : List (BitVec 32) := (List.range n).map fun j => BitVec.ofNat 32 (natAt bs (4 * j) 4)

/-- The reduction (R214, R337). -/
def reduceF (red : BitVec 2) (x y : BitVec 32) : BitVec 32 :=
  if red = 0 then addF x y else if red = 1 then maxF x y else minF x y

/-- The identity of a reduction: +0, −∞ or +∞ (R370). -/
def redIdentity (red : BitVec 2) : BitVec 32 := if red = 0 then 0 else if red = 1 then 0xFF800000 else 0x7F800000

/-- This member's input element e, widened to F32; none while a fused pass has not handed it over (R44, R337). A shadow
brings the identity instead (R370). -/
def Active.own0 (a : Active) (e : Nat) : Option (BitVec 32) :=
  if (e + 1) * a.es ≤ a.input.length then
    if a.shadow then some (redIdentity a.red) else
    (Fmt.ofCode a.efmt.toNat).map fun f => exactF32 (decodeNum f (natAt a.input (e * a.es) a.es))
  else none

/-- The partial of a chunk once this member has added its own elements to what it received at a step; at step 0 it
begins the chain (R337). -/
def Phase.partialOf (ph : Phase) (a : Active) (own : Nat → Option (BitVec 32)) (els : List Nat) (minus : Bool)
    (step idx : Nat) : Option (List (BitVec 32)) :=
  let part := (els.drop (1024 * realChunk (chunksOf (4 * els.length)) minus idx)).take 1024
  match allSome (part.map own) with
  | none => none
  | some mine =>
    if step = 0 then some mine
    else (a.data (ph.key minus step idx)).map fun bs => List.zipWith (reduceF a.red) (wordsOf part.length bs) mine

/-- The ringsum of the slice a member owns in a reducing phase (R337). -/
def Phase.reduced (ph : Phase) (a : Active) (own : Nat → Option (BitVec 32)) (els : List Nat) : Option (List (BitVec 32)) :=
  if ph.g = 1 then allSome (els.map own)
  else
    let k := chunksOf (4 * els.length)
    (allSome ((List.range k).map fun c =>
      let minus := c ≥ (k + 1) / 2
      ph.partialOf a own els minus (ph.g - 1) (if minus then c - (k + 1) / 2 else c))).map List.flatten

/-- The values a member brings into the axis-1 reducing phase: its axis-0 results (R337). -/
def Active.own1 (a : Active) (l : Seat) : Nat → Option (BitVec 32) :=
  let els := l.slice a.count false l.p0
  match (l.both .red).head? with
  | none => fun _ => none
  | some ph =>
    match ph.reduced a a.own0 els with
    | none => fun _ => none
    | some vs => fun e => ((els.zip vs).find? fun x => x.1 == e).map Prod.snd

/-- The values a member brings into a reducing phase. -/
def Phase.own (ph : Phase) (a : Active) (l : Seat) : Nat → Option (BitVec 32) := if ph.second then a.own1 l else a.own0

/-- The last reducing phase. -/
def Seat.lastRed (l : Seat) : Option Phase := (l.both .red).getLast?

/-- Round a reduced value into efmt (R214, R337). -/
def Active.rounded (a : Active) (v : BitVec 32) : List Byte :=
  match Fmt.ofCode a.efmt.toNat with
  | none => []
  | some f => leBytes a.es (roundTo f .rne (f32 v)).1

/-- This member's block of the reduced vector, in efmt (R337, R338). -/
def Active.ownBlock (a : Active) (l : Seat) : Option (List Byte) :=
  match l.lastRed with
  | none => none
  | some ph => (ph.reduced a (ph.own a l) (l.slice a.count ph.second ph.p)).map fun vs => vs.flatMap a.rounded

/-- A byte string put together from the chunks of a phase: stepOf gives the step by direction. -/
def Phase.assemble (ph : Phase) (a : Active) (bytes : Nat) (stepOf : Bool → Nat) : Option (List Byte) :=
  let k := chunksOf bytes
  (allSome ((List.range k).map fun c =>
    let minus := c ≥ (k + 1) / 2
    a.data (ph.key minus (stepOf minus) (if minus then c - (k + 1) / 2 else c)))).map List.flatten

/-- Hops from position j to this member in a direction. -/
def Phase.hopsFrom (ph : Phase) (j : Nat) (minus : Bool) : Nat :=
  if minus then (j + ph.g - ph.p) % ph.g else (ph.p + ph.g - j) % ph.g

/-- Bytes off to off + n − 1 of the slice of owner j, where the chunks that hold them have come. -/
def Phase.range (ph : Phase) (a : Active) (l : Seat) (j off n : Nat) : Option (List Byte) :=
  let k := chunksOf (ph.bytes a l j)
  let first := off / 4096
  (allSome ((List.range ((off + n - 1) / 4096 + 1 - first)).map fun i =>
    let c := first + i
    let minus := c ≥ (k + 1) / 2
    a.data (ph.key minus (ph.hopsFrom j minus) (if minus then c - (k + 1) / 2 else c)))).map fun bs =>
      (bs.flatten.drop (off % 4096)).take n

/-- The piece of position j in the gather on axis 1. -/
def Active.piece1 (a : Active) (l : Seat) (j : Nat) : Option (List Byte) :=
  let ph : Phase := { kind := .gath, second := true, no := l.no1, g := l.g1, p := l.p1 }
  if j = l.p1 then (if a.op == .ar then a.ownBlock l else some a.input)
  else ph.assemble a (ph.bytes a l j) (ph.hopsFrom j)

/-- The piece of position j in the gather on axis 0: on one axis its block or input, on two all of its axis-1 pieces
(R338, R339). -/
def Active.piece0 (a : Active) (l : Seat) (j : Nat) : Option (List Byte) :=
  let ph : Phase := { kind := .gath, second := false, no := l.no0, g := l.g0, p := l.p0 }
  if j = l.p0 then
    if l.axes = 2 then (allSome ((List.range l.g1).map (a.piece1 l))).map List.flatten
    else if a.op == .ar then a.ownBlock l
    else some a.input
  else ph.assemble a (ph.bytes a l j) (ph.hopsFrom j)

/-- The broadcast data where a member at the root's p1 holds it: the root's own, or what axis 0 brought (R340). -/
def Active.bcData (a : Active) (l : Seat) : Option (List Byte) :=
  let ph : Phase := { kind := .bc, second := false, no := l.no0, g := l.g0, p := l.p0 }
  if l.m = a.root then some a.input else ph.assemble a (ph.bytes a l 0) (ph.fromRoot a l)

/-- The first phase of an exchange (R346). -/
def Seat.swapFirst (l : Seat) : Phase := { kind := .swap, second := false, no := l.no0, g := l.g0, p := l.p0 }

/-- The piece that the member at position j of axis 0 brings for position q of axis 1, from byte off on: n bytes of it, where
they have come (R346). -/
def Active.swapPiece (a : Active) (l : Seat) (j q off n : Nat) : Option (List Byte) :=
  if j = l.p0 then some ((a.input.drop (a.pieceBytes * (l.p0 + l.g0 * q) + off)).take n)
  else l.swapFirst.range a l j (a.pieceBytes * q + off) n

/-- Bytes lo to lo + n − 1 of what this member sends in an exchange, where it has them: on axis 0 to position q the pieces for
its members, on axis 1 the regrouped pieces (R346). -/
def Active.swapOut (a : Active) (l : Seat) (second : Bool) (q lo n : Nat) : Option (List Byte) :=
  let size := a.pieceBytes
  (allSome ((List.range (if second then l.g0 else l.g1)).map fun i =>
    let first := max lo (i * size)
    let upto := min (lo + n) ((i + 1) * size)
    if upto ≤ first then some []
    else if second then a.swapPiece l i q (first - i * size) (upto - first)
    else some ((a.input.drop (size * (q + l.g0 * i) + (first - i * size))).take (upto - first)))).map List.flatten

/-- The bytes of a chunk a member sends; none while what it needs has not come. -/
def Phase.sendData (ph : Phase) (a : Active) (l : Seat) (k : ChunkKey) : Option (List Byte) :=
  let owner := ph.sendOwner k.dir k.step
  let n := chunksOf (ph.bytes a l owner)
  match ph.kind with
  | .red => (ph.partialOf a (ph.own a l) (l.slice a.count ph.second owner) k.dir (k.step - 1) k.idx).map fun vs =>
      vs.flatMap fun v => leBytes 4 v.toNat
  | .gath =>
    if k.step = 1 then
      (if ph.second then a.piece1 l ph.p else a.piece0 l ph.p).map fun bs => chunkAt bs (realChunk n k.dir k.idx)
    else a.data { k with step := k.step - 1 }
  | .bc =>
    if ph.fromRoot a l k.dir = 0 then (a.bcData l).map fun bs => chunkAt bs (realChunk n k.dir k.idx)
    else a.data { k with step := k.step - 1 }
  | .swap => a.swapOut l ph.second owner (4096 * realChunk n k.dir k.idx)
      (min 4096 (ph.bytes a l owner - 4096 * realChunk n k.dir k.idx))

/-! ### Progress -/

/-- Whether a phase has every chunk it receives. -/
def Phase.complete (ph : Phase) (a : Active) (l : Seat) : Bool :=
  [false, true].all fun d => (ph.recvKeys a l d).all fun k => (a.data k).isSome

/-- The phases a member has begun: those before the first incomplete one, and that one; the second phase of an exchange
sends what the first has brought so far, which its slots hold until then (R342, R346). -/
def begun (a : Active) (l : Seat) (phs : List Phase) : List Phase :=
  match phs with
  | [] => []
  | ph :: r => if ph.complete a l || ph.kind == .swap then ph :: begun a l r else [ph]

/-- The chunk due to be sent next on an axis and direction: the first in schedule order not sent. -/
def Active.nextSend (a : Active) (l : Seat) (k : ChunkKey) : Option (Phase × ChunkKey) :=
  ((a.phases l).flatMap fun ph => if (ph.no == 1) == k.ph then (ph.sendKeys a l k.dir).map fun x => (ph, x) else []).find?
    fun x => !a.sent.contains x.2

/-- Every chunk of the collective is sent. -/
def Active.allSent (a : Active) (l : Seat) : Bool :=
  (a.phases l).all fun ph => [false, true].all fun d => (ph.sendKeys a l d).all fun k => a.sent.contains k

/-- What tells the sources and directions of chunks apart on a member: the axis, the direction and the hops from the source
(R337, R346). -/
def Active.flowNo (a : Active) (k : ChunkKey) : Bool × Bool × Nat := (k.ph, k.dir, a.hops k.step)

/-- Every chunk a member receives, in the order of its schedule. -/
def Active.schedule (a : Active) (l : Seat) : List (Phase × ChunkKey) :=
  (a.phases l).flatMap fun ph => [false, true].flatMap fun d => (ph.recvKeys a l d).map fun k => (ph, k)

/-- The chunks a member waits for: of each source and direction the first in its schedule that has not come, once every
earlier one of them is consumed (R347). -/
def Active.awaited (a : Active) (l : Seat) : List (Phase × ChunkKey) :=
  ((a.schedule l).foldl (fun (acc : List (Phase × ChunkKey) × List (Bool × Bool × Nat)) x =>
    let f := a.flowNo x.2
    if acc.2.contains f then acc
    else
      match a.got.find? fun g => g.key == x.2 with
      | none => (acc.1 ++ [x], f :: acc.2)
      | some g => if g.freed then acc else (acc.1, f :: acc.2)) ([], [])).1

/-- The phase a chunk belongs to. -/
def Active.phaseOf (a : Active) (l : Seat) (k : ChunkKey) : Option Phase :=
  (a.phases l).find? fun ph => (ph.no == 1) == k.ph && (ph.kind == .gath) == k.gather

/-- The order in which pieces on a ring enter mring (R339). -/
def gatherOrder (g i : Nat) : List Nat :=
  ([i] ++ (List.range (g - 1)).flatMap fun t => [ahead g i true (t + 1), ahead g i false (t + 1)]).eraseDups

/-- The order of all pieces: each axis-1 piece expanded on axis 0 (R339). -/
def Seat.order (l : Seat) : List (Nat × Nat) :=
  (gatherOrder l.g1 l.p1).flatMap fun q1 => (gatherOrder l.g0 l.p0).map fun q0 => (q0, q1)

/-- Bytes of one gathered piece. -/
def Active.pieceLen (a : Active) : Nat := a.es * a.count

/-- Bytes of the piece of a member, where they have come. -/
def Active.pieceRange (a : Active) (l : Seat) (q : Nat × Nat) (off n : Nat) : Option (List Byte) :=
  if q = (l.p0, l.p1) then some ((a.input.drop off).take n)
  else if q.1 = l.p0 then
    ({ kind := .gath, second := true, no := l.no1, g := l.g1, p := l.p1 } : Phase).range a l q.2 off n
  else
    ({ kind := .gath, second := false, no := l.no0, g := l.g0, p := l.p0 } : Phase).range a l q.1 (q.2 * a.pieceLen + off) n

/-- Whether a gathered byte has entered mring: byte o of the slice of owner j of a phase. -/
def Active.isFed (a : Active) (l : Seat) (ph : Phase) (j o : Nat) : Bool :=
  let q := if ph.second then (l.p0, j) else (j, o / max 1 a.pieceLen)
  l.order.idxOf q * a.pieceLen + o % max 1 a.pieceLen < a.fed

/-- The key under which byte o of the message to position q of axis 1 is sent in the second phase of an exchange
(R337, R346). -/
def Active.swapKey (a : Active) (l : Seat) (q o : Nat) : ChunkKey :=
  let ph : Phase := { kind := .swap, second := true, no := l.no1, g := l.g1, p := l.p1 }
  let k := chunksOf (ph.bytes a l q)
  let c := o / 4096
  let minus := c ≥ (k + 1) / 2
  ph.key minus (if minus then (l.p1 + l.g1 - q) % l.g1 else (q + l.g1 - l.p1) % l.g1) (if minus then c - (k + 1) / 2 else c)

/-- Whether the bytes of a chunk of the first phase of an exchange, from position j, that are bound for other positions of
axis 1 have been sent on (R342, R346). -/
def Active.passedOn (a : Active) (l : Seat) (j : Nat) (k : ChunkKey) : Bool :=
  let size := a.pieceBytes
  let off := 4096 * realChunk (chunksOf (l.swapFirst.bytes a l j)) k.dir k.idx
  (List.range ((a.data k).getD []).length).all fun i =>
    let q := (off + i) / size
    q == l.p1 || a.sent.contains (a.swapKey l q (j * size + (off + i) % size))

/-- Whether the slot of a received chunk is done with: added and forwarded, written and forwarded, or in mring (R342,
R345). -/
def Active.released (a : Active) (l : Seat) (ph : Phase) (k : ChunkKey) : Bool :=
  let forwarded := k.step + 1 ≥ ph.g || a.sent.contains { k with step := k.step + 1 }
  let owner := ph.recvOwner k.dir k.step
  match ph.kind with
  | .red =>
    if k.step + 1 < ph.g then forwarded
    else (ph.partialOf a (ph.own a l) (l.slice a.count ph.second ph.p) k.dir k.step k.idx).isSome
  | .gath =>
    let off := 4096 * realChunk (chunksOf (ph.bytes a l owner)) k.dir k.idx
    forwarded && (!a.fused || (List.range ((a.data k).getD []).length).all fun i => a.isFed l ph owner (off + i))
  | .bc => forwarded
  | .swap => !(l.axes == 2) || ph.second || a.passedOn l owner k

/-! ### Where results land -/

/-- The address of byte o of an exchanged piece of member m (R346). -/
def Active.swapAddr (a : Active) (l : Seat) (m o : Nat) : Nat :=
  let body := a.pieceBytes - 4
  if o < body then a.dst + m * body + o else a.dst + l.g * body + 4 * m + (o - body)

/-- The address of byte o of what a phase moves for an owner; none where it stays in the engine. -/
def Phase.landing (ph : Phase) (a : Active) (l : Seat) (owner o : Nat) : Option Nat :=
  match ph.kind with
  | .red => none
  | .gath =>
    if a.fused then none
    else if a.op == .ar then
      ((l.slice a.count ph.second owner)[o / a.es]?).map fun e => a.dst + e * a.es + o % a.es
    else
      let m := if ph.second then l.p0 + l.g0 * owner else owner + l.g0 * (o / max 1 a.pieceLen)
      some (a.dst + m * a.pieceLen + o % max 1 a.pieceLen)
  | .bc => some (a.dst + o)
  | .swap =>
    let i := o / a.pieceBytes
    if l.axes = 2 && !ph.second && i != l.p1 then none
    else
      let m := if ph.second then i + l.g0 * owner else owner + l.g0 * i
      some (a.swapAddr l m (o % a.pieceBytes))

/-- Bytes at the places a landing function gives, from offset off. -/
def landAt (f : Nat → Option Nat) (off : Nat) (bs : List Byte) : List (Nat × Byte) :=
  ((List.range bs.length).zip bs).filterMap fun x => (f (off + x.1)).map fun d => (d, x.2)

/-- The address of element e of this member's reduced block (R338). -/
def Active.blockAddr (a : Active) (l : Seat) (e : Nat) : Nat :=
  if a.op == .ar then a.dst + e * a.es else a.dst + (e - l.m * a.count / l.g) * a.es

/-- Reduced elements in efmt at their addresses. -/
def Active.blockCells (a : Active) (l : Seat) (els : List Nat) (vs : List (BitVec 32)) : List (Nat × Byte) :=
  (els.zip vs).flatMap fun x =>
    let bs := a.rounded x.2
    ((List.range bs.length).zip bs).map fun y => (a.blockAddr l x.1 + y.1, y.2)

/-- What is written when the slot of a chunk is done with. -/
def Active.chunkCells (a : Active) (l : Seat) (ph : Phase) (k : ChunkKey) : List (Nat × Byte) :=
  let owner := ph.recvOwner k.dir k.step
  match ph.kind with
  | .red =>
    if k.step + 1 < ph.g || (l.axes = 2 && !ph.second) then []
    else
      let els := l.slice a.count ph.second ph.p
      let part := (els.drop (1024 * realChunk (chunksOf (4 * els.length)) k.dir k.idx)).take 1024
      match ph.partialOf a (ph.own a l) els k.dir k.step k.idx with
      | none => []
      | some vs => a.blockCells l part vs
  | _ => landAt (ph.landing a l owner) (4096 * realChunk (chunksOf (ph.bytes a l owner)) k.dir k.idx) ((a.data k).getD [])

/-- What no chunk brings and the member writes at the end: its own block, piece or data, and for CL.A2A of nothing the
empty blocks and counts (R337 to R340, R346, R523). -/
def Active.ownCells (a : Active) (l : Seat) : List (Nat × Byte) :=
  if a.count = 0 then
    if a.op == .a2a then
      (List.range (l.g * a.pieceBytes)).map fun i => (a.dst + i, 0)
    else []
  else
    match a.op with
    | .ar | .rs =>
      match l.lastRed with
      | none => []
      | some ph =>
        if ph.g != 1 then []
        else
          let els := l.slice a.count ph.second ph.p
          a.blockCells l els ((ph.reduced a (ph.own a l) els).getD [])
    | .ag => if a.fused then [] else landAt (fun o => some (a.dst + l.m * a.pieceLen + o)) 0 a.input
    | .bc => if l.m = a.root then landAt (fun o => some (a.dst + o)) 0 a.input else []
    | .a2a => landAt (fun o => some (a.swapAddr l l.m o)) 0 ((a.input.drop (a.pieceBytes * l.m)).take a.pieceBytes)
    | .bar => []
    | .vote => []

/-- The sum of squares of a reduced result in efmt (R343). -/
def sumSquares (f : Fmt) (bs : List Byte) (n : Nat) : BitVec 32 :=
  let sq := (List.range n).map fun j =>
    let x := exactF32 (decodeNum f (natAt bs (f.bits / 8 * j) (f.bits / 8)))
    mulF x x
  let run := fun (i : Nat) => (redTree 1 ((List.range 256).map fun j => sq.getD (256 * i + j) 0) 8).1
  match (List.range ((n + 255) / 256)).map run with
  | [] => 0
  | x :: r => r.foldl addF x

/-- The result whose norm is taken: the block of CL.RS, the vector of CL.AR (R343). -/
def Active.normOf (a : Active) (l : Seat) : BitVec 32 :=
  match Fmt.ofCode a.efmt.toNat with
  | none => 0
  | some f =>
    let whole := if a.op == .ar then (allSome ((List.range l.g0).map fun j => (a.piece0 l j).map fun bs =>
          ((l.slice a.count false j).zip ((List.range (bs.length / a.es)).map fun i => (bs.drop (i * a.es)).take a.es)))).map
            fun xs => (List.range a.count).flatMap fun e =>
              ((xs.flatten.find? fun x => x.1 == e).map Prod.snd).getD []
      else a.ownBlock l
    let bs := whole.getD []
    sumSquares f bs (bs.length / a.es)

/-! ### The engine -/

/-- A collective completes: what no chunk brought is written, then the norm and the drops; it ends OK, with
CAPACITY_DROP where it dropped entries, or with ECC_UNCORRECTABLE where a write met poison (R214, R236, R343, R346). -/
def State.finishColl (s : State) (a : Active) (l : Seat) : State :=
  let (s, b0) := s.writeCells (a.ownCells l)
  let (s, b1) := if a.norm then s.writeMem a.normAddr (leBytes 4 (a.normOf l).toNat) else (s, false)
  let (s, b2) := s.writeDrops a
  let st : Status := if a.bad || b0 || b1 || b2 then .eccUncorrectable else if a.drops != 0 then .capacityDrop else .ok
  let (s, e) := (s.digestColl a).takeColl a st 0
  match e with
  | none => s
  | some e => s.complete a.core e st

/-- Whether an addition of this member made NaN of two values that are not (R79). -/
def Active.madeNan (a : Active) (l : Seat) (ph : Phase) (k : ChunkKey) : Bool :=
  if ph.kind != .red then false
  else
    let els := l.slice a.count ph.second (ahead ph.g ph.p (!k.dir) (k.step + 1))
    let part := (els.drop (1024 * realChunk (chunksOf (4 * els.length)) k.dir k.idx)).take 1024
    match allSome (part.map (ph.own a l)), a.data k with
    | some mine, some bs => ((wordsOf part.length bs).zip mine).any fun x =>
        !isNanF x.1 && !isNanF x.2 && isNanF (reduceF a.red x.1 x.2)
    | _, _ => false

/-- Release the slots that are done with: their results are written and their credits owed (R342). -/
def State.freeSlots (s : State) (a : Active) (l : Seat) : State × Active :=
  a.got.foldl (fun (acc : State × Active) g =>
    if g.freed then acc
    else
      let (s, a) := acc
      match a.phaseOf l g.key with
      | none => acc
      | some ph =>
        if !a.released l ph g.key then acc
        else
          let (s, bad) := s.writeCells (a.chunkCells l ph g.key)
          let s := if a.madeNan l ph g.key then s.modCore a.core CoreSt.sawNan else s
          let a := { a with bad := a.bad || bad
                            got := a.got.map fun x => if x.key == g.key then { x with freed := true } else x }
          (s.oweChunk a g, a)) (s, a)

/-- The instruction of a fused collective side. -/
def CoreSt.sideEntry (c : CoreSt) (id : Nat) : Option QEntry := (c.cl.running.find? fun x => x.e.id == id).map RunEntry.e

/-- The next bytes of a fused all-gather enter mring, where they have come and a slot is EMPTY (R218, R345). -/
def State.feedStep (s : State) (a : Active) : Option State :=
  let l := s.seat a
  let total := a.pieceLen * l.g
  if !(a.fused && a.op == .ag && a.fed < total) then none
  else
    match (s.core a.core).sideEntry a.id, (l.order)[a.fed / a.pieceLen]? with
    | some e, some q =>
      let ring := bitsOf e.w 47 44
      let off := a.fed % a.pieceLen
      let n := min 4096 (a.pieceLen - off)
      if !((s.core a.core).arch.ringOf ring).hasRoom then none
      else
        (a.pieceRange l q off n).map fun bs =>
          let (s, bad) := s.ringPut a.core ring a.id bs (a.fed + n == total)
          s.putActive { a with fed := a.fed + n, bad := a.bad || bad }
    | _, _ => none

/-- The elements of its input that a member's first reducing phase has used up: those of the partials it has sent, and of its
own slice those whose last partial has come (R331, R337, R344). -/
def Phase.used (ph : Phase) (a : Active) (l : Seat) : List Nat :=
  let part := fun (d : Bool) (owner idx : Nat) =>
    let n := chunksOf (ph.bytes a l owner)
    ((l.slice a.count ph.second owner).drop (1024 * realChunk n d idx)).take 1024
  [false, true].flatMap fun d =>
    ((ph.sendKeys a l d).filter a.sent.contains).flatMap (fun k => part d (ph.sendOwner d k.step) k.idx) ++
    ((List.range (halfChunks (chunksOf (ph.bytes a l ph.p)) d)).filter fun i =>
        ph.g == 1 || (a.data (ph.key d (ph.g - 1) i)).isSome).flatMap (part d ph.p)

/-- Rows of n elements that a fused reduce-scatter holds in local slots: each until the last of its elements is used
(R344). -/
def Active.rowsHeld (a : Active) (l : Seat) (n : Nat) : Nat :=
  let used := match a.phases l with
    | [] => []
    | ph :: _ => ph.used a l
  ((List.range (a.input.length / (a.es * n))).filter fun r =>
    (List.range n).any fun j => !used.contains (r * n + j)).length

/-- Whether the reduce-scatter of core n's first pass under way has a free local slot for a row (R92, R219, R344). -/
def State.stageRoom (s : State) (n : Core) : Bool :=
  match (s.core n).mx.running.find? fun x => x.status.isNone && x.e.op == .mxRs with
  | none => true
  | some x =>
    match s.fusedColl n x.e.id, x.g.dot with
    | some a, some d =>
      match s.commOn a.comm with
      | some (w, slots) => a.rowsHeld (s.seat a) d.n < localSlots w slots.toNat
      | none => true
    | _, _ => true

/-- Whether a collective has all it receives, has sent all it sends, and holds no slot. -/
def Active.finished (a : Active) (l : Seat) : Bool :=
  (a.phases l).all (fun ph => ph.complete a l) && a.allSent l && a.got.all Got.freed &&
    (!a.fused || (if a.op == .ag then a.fed ≥ a.pieceLen * l.g else a.input.length ≥ a.count * a.es))

/-- A collective goes on as far as it can: a vote, a barrier and a collective of nothing by their control phases, any
other by releasing slots and ending. -/
def State.pumpColl (s : State) (a : Active) : State :=
  if a.op == .vote then s.settleVote a
  else if a.op == .bar || a.count = 0 then
    let (s, a, done) := s.ctrlPhases a (s.collAxes a) []
    if done then s.finishColl a (s.seat a) else s.putActive a
  else
    let l := s.seat a
    let (s, a) := s.freeSlots a l
    let s := s.putActive a
    if a.finished l then s.finishColl a l else s

end Sys2Proof.Machine
end

