-- ==== Sys2Proof/Machine/Engines.lean ====
section
/-! DEFINITION. The engines of a core run as far as their data allows (R57, R58), and the events that start and complete
their instructions (R60 to R62, R91, R118, R135, R154, R193, R217, R220, R267). -/

namespace Sys2Proof.Machine

/-! ### Running the engines -/

/-- A number that decides which of several running engines of a core acts, and how far: nothing orders them where more
than one runs (R58, R124). -/
def CoreSt.turn (c : CoreSt) : Nat :=
  let runs := [c.mx.running, c.mv.running, c.vx.running]
  if (runs.filter fun q => !q.isEmpty).length ≤ 1 then 0
  else Config.turn (runs.flatten.flatMap fun x => [x.e.id, x.g.row, x.g.beat, x.g.adds, x.g.flight.length])

/-- The order in which the matrix engine (0), the Shank path (1) and the vector engine (2) of a core are asked to act. -/
def CoreSt.turns (c : CoreSt) : List Nat :=
  let t := c.turn
  if t / 3 % 2 = 0 then [t % 3, (t + 1) % 3, (t + 2) % 3] else [t % 3, (t + 2) % 3, (t + 1) % 3]

/-- How many heel adds an engine makes in one act: a row's where no other engine runs. -/
def CoreSt.cut (c : CoreSt) : Nat := if c.turn = 0 then 1024 else c.turn / 6 % 1024 + 1

/-- One act of whichever engine of core n can act, or of a fused all-gather that fills its ring. late holds back slow
hardware. -/
def State.engineStep (s : State) (n : Core) (late : Bool) : Option State :=
  let c := s.core n
  match c.turns.findSome? fun k =>
      if k = 0 then s.mxStep n late (s.stageRoom n) c.cut else if k = 1 then s.shankStep n late c.cut else s.vxStep n late with
  | some t => some t
  | none => (s.coll.active.filter fun a => a.core == n).findSome? s.feedStep

/-- The engines of core n act until each waits; fuel bounds the acts. -/
def State.runEngines (s : State) (n : Core) (fuel : Nat) : State :=
  match fuel with
  | 0 => s
  | k + 1 =>
    match s.engineStep n true with
    | none => s
    | some t => t.runEngines n k

/-- The engines of core n act, slow hardware too, until an instruction of queue q has ended or each waits. -/
def State.runUntil (s : State) (n : Core) (q : QueueId) (fuel : Nat) : State :=
  match fuel with
  | 0 => s
  | k + 1 =>
    if ((s.core n).queue q).running.any fun x => x.status.isSome then s
    else
      match s.engineStep n false with
      | none => s
      | some t => t.runUntil n q k

/-- The fused collectives of core n go on with what its engines have made or taken. -/
def State.pumpFused (s : State) (n : Core) : State :=
  (s.coll.active.filter fun a => a.core == n && a.fused).foldl State.pumpColl s

/-- Acts the engines may make for one event: more than the rows and beats that the rings of a core can hold. -/
def engineFuel : Nat := 1048576

/-- The engines of core n take up a change: nothing moves while its clocks are off. -/
def State.settle (s : State) (n : Core) : State :=
  if s.fastOn then (((s.runEngines n engineFuel).pumpFused n).runEngines n engineFuel) else s

/-- An instruction of queue q is due to complete, so that slow hardware comes to its end. -/
def State.urge (s : State) (n : Core) (q : QueueId) : State :=
  if (s.core n).queue q |>.running.any fun x => x.hw.slow then s.runUntil n q engineFuel else s

/-! ### Starting -/

/-- The wait count that applies at a queue's head: in MX.AG the collective side waits, in MX.RS the matrix side (R62,
R217). -/
def headWait (e : QEntry) : Nat := if e.op == .mxAg || e.op == .rsSide then 0 else tailWcnt e.w

/-- Whether the head's wait is met (R62). -/
def CoreSt.waitMet (c : CoreSt) (e : QEntry) : Bool := headWait e ≤ (c.arch.semOf (tailWsem e.w)).count.toNat

/-- The head leaves the waiting list, and its wait count is subtracted (R62). -/
def CoreSt.takeHead (c : CoreSt) (q : QueueId) (e : QEntry) : CoreSt :=
  let k := c.queue q
  let c := c.setQueue q { k with waiting := k.waiting.drop 1 }
  let x := c.arch.semOf (tailWsem e.w)
  let y : Sem := { x with count := x.count - BitVec.ofNat 16 (headWait e) }
  if headWait e = 0 then c else { c with arch := c.arch.setSem (tailWsem e.w) y }

/-- The head of queue q of core n that may start by its order and its wait. -/
def State.headOf (s : State) (n : Core) (q : QueueId) : Option QEntry :=
  let c := s.core n
  if !(s.fastOn && c.busy && c.phase == .service && !c.stopping) then none
  else
    match (c.queue q).waiting with
    | [] => none
    | e :: _ => if c.waitMet e then some e else none

/-- A head whose predicate is false does nothing and signals OK; a side of a fused instruction ends OK (R60, R193,
R220). -/
def State.skipHead (s : State) (n : Core) (q : QueueId) (e : QEntry) : State :=
  let s := s.modCore n fun c => c.takeHead q e
  if e.op.isFused then
    (s.addRun n q e HwFault.sound Progress.zero).endRun n q e.id .ok
  else s.complete n e .ok

/-- Whether the unit state lets the head of a queue start (R58, R88, R90, R104, R119, R127, R145, R148). NM. commands and
collectives have their own events. -/
def CoreSt.mayStart (c : CoreSt) (q : QueueId) (e : QEntry) : Bool :=
  match q with
  | .mx => c.mxMayStart e
  | .mv => c.mvMayStart e && !c.mvHeld e
  | .vx => c.vxMayStart e
  | .st => c.stMayStart e
  | .cl => false

/-- The head of a queue starts in its engine. -/
def State.startHead (s : State) (n : Core) (q : QueueId) (e : QEntry) (hw : HwFault) : State :=
  match q with
  | .mx => s.startMx n e hw
  | .mv => s.startShank n e hw
  | .vx => s.startVx n e hw
  | .st =>
    match e.op with
    | .stRing => s.startRing n e
    | .stDesc => s.startDesc n e hw.descEcc
    | _ => s.startGo n e hw
  | .cl => s

/-- An engine instruction at the head of its queue starts, once its wait is met and its engine takes it (R57 to R62,
R193). -/
def execEngineInstructionStart (n : Core) (q : QueueId) (hw : HwFault) (s : State) :
    Host.Outcome State Fault Refusal :=
  .next <|
    match s.headOf n q with
    | none => s
    | some e =>
      if !e.act then (s.skipHead n q e).settle n
      else if (s.core n).mayStart q e then (((s.modCore n fun c => c.takeHead q e).startHead n q e hw).settle n)
      else s

/-- A near-memory command at the head of the ST queue starts once every stack it names has a free entry (R267). -/
def execNmCommandStart (n : Core) (e : Ecc) (s : State) : Host.Outcome State Fault Refusal :=
  .next <|
    match s.headOf n .st with
    | none => s
    | some x =>
      match x.op with
      | .nm f =>
        if !x.act then s.skipHead n .st x
        else ((s.modCore n fun c => c.takeHead .st x).startNm n x f e).getD s
      | _ => s

/-! ### Completing -/

/-- A pass completes and signals one cycle after its last heel add (R91, R112). -/
def execMxPassComplete (n : Core) (s : State) : Host.Outcome State Fault Refusal :=
  .next (if s.fastOn then ((s.urge n .mx).passDone n).settle n else s)

/-- An MV.DOT completes and signals (R118, R125). -/
def execMvDotComplete (n : Core) (s : State) : Host.Outcome State Fault Refusal :=
  .next (if s.fastOn then ((s.urge n .mv).shankDone n).settle n else s)

/-- A chain completes and signals (R135, R143). -/
def execVxChainComplete (n : Core) (s : State) : Host.Outcome State Fault Refusal :=
  .next (if s.fastOn then ((s.urge n .vx).chainDone n).settle n else s)

/-- A fused instruction completes when both sides have: it signals once, with the collective side's status if that is
not OK, else the matrix side's (R220). -/
def execFusedComplete (n : Core) (s : State) : Host.Outcome State Fault Refusal :=
  .next <|
    let s := if s.fastOn then s.urge n .mx else s
    let c := s.core n
    let other := fun (x : RunEntry) => c.cl.running.find? fun y => y.e.id == x.e.id && y.status.isSome
    match c.mx.running.find? fun x => x.e.op.isFused && x.status.isSome && (other x).isSome with
    | none => s
    | some x =>
      if !s.fastOn then s
      else
        let st := Status.orElse (((other x).bind RunEntry.status).getD .ok) (c.endStatus x.g (x.status.getD .ok))
        let s := s.modCore n fun c =>
          { c with mx := { c.mx with running := c.mx.running.filter fun y => y.e.id != x.e.id }
                   cl := { c.cl with running := c.cl.running.filter fun y => y.e.id != x.e.id } }
        (((s.modArch n fun a => a.release x.e.id st).modCore n fun c => c.overflowFlag x.g.ovf).complete n x.e st).settle n

/-! ### Streams and rings -/

/-- A landed block moves into its ring, and the engines take it up (R158). -/
def execBlockMoveToRing (n : Core) (x : SlotMove) (s : State) : Host.Outcome State Fault Refusal :=
  .next ((s.blockMove n x.t x.ecc).settle n)

/-- A write stream takes a slot of its ring, which frees it for its producer (R159). -/
def execWriteSlotTake (n : Core) (t : Fin 16) (e : Ecc) (s : State) : Host.Outcome State Fault Refusal :=
  .next ((s.slotTake n t e).settle n)

/-- A stream completes, and its ring goes to the next producer or consumer (R154). -/
def execStreamComplete (n : Core) (t : Fin 16) (s : State) : Host.Outcome State Fault Refusal :=
  .next ((s.streamDone n t).settle n)

end Sys2Proof.Machine
end

