-- ==== Sys2Proof/Machine/Receive.lean ====
section
/-! DEFINITION. What a router does with a packet from a link: the checks of R301 and the place a packet for this part
goes to (R296 to R306). -/

namespace Sys2Proof.Machine

/-- Whether len bytes from an address lie in one 4 KiB granule. -/
def inGranule (a len : Nat) : Bool := a % 4096 + len ≤ 4096

/-- The kind is not reserved, and the class, unit, len and arg are those its kind allows; reserved bits are zero (R297 to
R299, R313, R336, R361). -/
def packetOk (k : Packet) : Bool :=
  let c := k.cls.toNat
  let u := k.dunit.toNat
  let n := k.payload.length
  let full := n == k.len.toNat + 1
  let status := bitsOf k.arg 7 0
  let reply := k.kind == 2 || k.kind == 3
  !k.resv && (reply || (k.uepoch == 0 && (!k.echo || k.kind == 5))) &&
    match k.kind.toNat with
    | 0 => c == 0 && u == 0 && n == 0 && bitsOf k.arg 5 0 == 0 && (k.len.toNat + 1) % 64 == 0 &&
        inGranule k.arg.toNat (k.len.toNat + 1)
    | 1 => c == 0 && u == 0 && full && (if bitOf k.ctx 15 then k.len == 2303 && bitsOf k.arg 10 0 == 0
        else inGranule k.arg.toNat n)
    | 2 => c == 1 && 1 ≤ u && u ≤ 16 && bitsOf k.arg 47 8 == 0 &&
        (if status == 0 then full else n == 0 && (status == 0x20 || status == 0x12))
    | 3 => c == 1 && 1 ≤ u && u ≤ 16 && bitsOf k.arg 47 8 == 0 && n == 0 && k.len == 0 &&
        (status == 0 || status == 0x20 || status == 0x12)
    | 4 => c == 3 && u == 0x20 && full
    | 5 => c == 3 && u == 0x20 && n == 0 && k.len == 0 && bitsOf k.arg 35 31 == 0 && bitsOf k.arg 15 0 == 0
    | 6 => c == 3 && u == 0x20 && n == 0 && k.len == 0
    | 7 => c == 3 && u == 0x20 && n == 0 && k.len == 0 && bitsOf k.arg 36 31 == 0
    | 8 => c == 2 && u == 0x21 && n == 8
    | 9 =>
      let sub := bitsOf k.arg 7 4
      c == 2 && u == 0x21 && k.len.toNat == n && 1 ≤ sub && sub ≤ 4 && bitsOf k.arg 1 0 == 0 &&
        (sub != 4 || bitsOf k.arg 3 2 == 0) && n == (if sub == 3 then 0 else 8)
    | _ => false

/-- Whether the route of a packet that came in on port p is consistent here (R304). -/
def State.routeOk (s : State) (p : Port) (k : Packet) : Bool :=
  match s.route k.dst with
  | none => true
  | some q => p.val / 2 ≤ q.val / 2 && q != p

/-- For this part: a request names memory that exists here (R301 check 5). -/
def State.argOk (s : State) (k : Packet) : Bool :=
  if k.kind == 0 then s.reach k.arg.toNat (k.len.toNat + 1)
  else if k.kind == 1 then
    if bitOf k.ctx 15 then s.reach k.arg.toNat 2048 else s.reach k.arg.toNat k.payload.length
  else true

/-- The counters of a discarded packet (R301, R322, R327). -/
inductive Discard where
  | crc | bad | fenced | route
deriving DecidableEq, Repr

/-- The first failing check of a packet received on port p (R301). -/
def State.discard (s : State) (p : Port) (k : Packet) : Option Discard :=
  if !(k.good && k.crc == packetSum k) then some .crc
  else if !(packetOk k && s.inExtents k.dst) then some .bad
  else if s.fencedCoord k.src || s.fencedCoord k.dst then some .fenced
  else if !s.routeOk p k then some .route
  else if k.dst == s.coord && !s.argOk k then some .bad
  else none

/-- Count a discarded packet, in its register and in the health counters, and the code words of its link that could not be
corrected (R287, R301, R327). -/
def State.countDiscard (s : State) (p : Port) (k : Packet) (d : Discard) : State :=
  match d with
  | .crc =>
    let s := s.health 0x03 linkCause p.val
    { s with fab := { s.fab with port := vmod s.fab.port p fun x =>
        { x with crc := satAdd x.crc 1, fecUe := satAdd x.fecUe k.ue } } }
  | .bad =>
    let s := s.health 0x03 neighbour p.val
    { s with fab := { s.fab with discBad := satAdd s.fab.discBad 1 } }
  | .fenced =>
    let s := s.health 0x03 neighbour p.val
    { s with fab := { s.fab with discFenced := satAdd s.fab.discFenced 1 } }
  | .route =>
    let s := s.health 0x03 neighbour p.val
    { s with fab := { s.fab with discRoute := satAdd s.fab.discRoute 1 } }

/-- Whether port p takes packets: the clocks run and it is UP (R289). -/
def State.portOpen (s : State) (p : Port) : Bool := s.fastOn && s.fab.port[p].state == .up

/-- The channel a packet came in on. -/
def inChannel (k : Packet) : Nat := channel k.cls.toNat k.dl

/-- A packet of one kind for this part comes in on port p: it is checked, and acts where it passes; one that does not stay in
its place leaves it at once, and its credit is returned (R306). A packet of another kind or for another part is the subject
of another command, and nothing happens. -/
def State.arrive (s : State) (p : Port) (k : Packet) (kind : Nat) (f : State → State) : State :=
  if !s.portOpen p then s
  else
    match s.discard p k with
    | some d => (s.countDiscard p k d).freePlace p (inChannel k)
    | none => if k.dst == s.coord && k.kind.toNat == kind then f (if kind < 2 then s else s.freePlace p (inChannel k)) else s

end Sys2Proof.Machine
end

