-- ==== Sys2Proof/Machine/Collective.lean ====
section
/-! DEFINITION. The collective engine's commands (R213 to R220, R329 to R349): issue, start with its checks, chunks,
credits, re-requests and control packets. -/

namespace Sys2Proof.Machine

/-! ### Issue (R213) -/

/-- Issue of a collective: sa in [43:38] gives its descriptor. -/
def State.issueColl (s : State) (n : Core) (w : BitVec 48) (f : ClOp) : State :=
  s.issueEngine n .cl (.cl f) w (bitsOf w 43 38) 0 0
    (firstFail [(tailOk w && clear w 47 44 && clear w 37 21, cResv)])

/-- CL.AR sa (R214). -/
def execClAr (n : Core) (w : BitVec 48) (s : State) : Host.Outcome State Fault Refusal := .next (s.issueColl n w .ar)

/-- CL.RS sa (R214). -/
def execClRs (n : Core) (w : BitVec 48) (s : State) : Host.Outcome State Fault Refusal := .next (s.issueColl n w .rs)

/-- CL.AG sa (R214). -/
def execClAg (n : Core) (w : BitVec 48) (s : State) : Host.Outcome State Fault Refusal := .next (s.issueColl n w .ag)

/-- CL.A2A sa (R214). -/
def execClA2a (n : Core) (w : BitVec 48) (s : State) : Host.Outcome State Fault Refusal := .next (s.issueColl n w .a2a)

/-- CL.BC sa (R214). -/
def execClBc (n : Core) (w : BitVec 48) (s : State) : Host.Outcome State Fault Refusal := .next (s.issueColl n w .bc)

/-- CL.BAR sa (R214). -/
def execClBar (n : Core) (w : BitVec 48) (s : State) : Host.Outcome State Fault Refusal := .next (s.issueColl n w .bar)

/-! ### The descriptor (R213, R214, R216, R523) -/

/-- The operation code a signature carries (R214, R333). -/
def ClOp.code (f : ClOp) : Nat :=
  match f with
  | .ar => 0 | .rs => 1 | .ag => 2 | .a2a => 3 | .bc => 4 | .bar => 5 | .vote => 6

/-- A collective's descriptor. -/
structure CollDesc where
  op : ClOp
  fused : Bool
  raw : List Byte
  axes : Nat
  red : Nat
  norm : Bool
  efmt : Nat
  root : Nat
  width : Nat
  count : Nat
  src : Nat
  dst : Nat
  cap : Nat
  cnt : Nat
  normAddr : Nat

/-- Read the fields of a descriptor. -/
def collDesc (op : ClOp) (fused : Bool) (raw : List Byte) : CollDesc :=
  let ctl := natAt raw 1 1
  { op := op, fused := fused, raw := raw, axes := ctl % 4, red := ctl / 4 % 4, norm := ctl / 16 % 2 == 1
    efmt := natAt raw 2 1 % 16, root := natAt raw 4 2, width := natAt raw 6 2, count := natAt raw 8 8
    src := natAt raw 16 8, dst := natAt raw 24 8, cap := natAt raw 32 4, cnt := natAt raw 40 8
    normAddr := natAt raw 48 8 }

/-- Bytes of one element. -/
def CollDesc.es (d : CollDesc) : Nat := (((Fmt.ofCode d.efmt).map Fmt.bits).getD 8) / 8

/-- The active collective a descriptor describes, its key and input not yet given. -/
def CollDesc.active (d : CollDesc) (n : Core) (id : Nat) (off : Nat) : Active :=
  { Active.blank n (BitVec.ofNat 8 (natAt d.raw 0 1)) 0 0 0 d.op with
    id := id, fused := d.fused, axes := BitVec.ofNat 2 d.axes, red := BitVec.ofNat 2 d.red, norm := d.norm
    efmt := BitVec.ofNat 4 d.efmt, root := d.root, width := d.width, count := d.count, dst := d.dst, cap := d.cap
    normAddr := d.normAddr, desc := off }

/-- Fields that R214 marks zero, with the zeros a fused form adds (R218, R219). count is what the descriptor holds. -/
def CollDesc.zerosOk (d : CollDesc) (count : Nat) (isRoot : Bool) : Bool :=
  let none4 := d.width == 0 && d.cap == 0 && d.cnt == 0
  let plain := d.red == 0 && !d.norm
  match d.op with
  | .ar => d.root == 0 && none4
  | .rs => d.root == 0 && none4 && (!d.fused || (d.src == 0 && count == 0))
  | .ag => plain && d.root == 0 && none4 && (!d.fused || d.dst == 0)
  | .a2a => plain && d.root == 0 && d.width != 0
  | .bc => plain && none4 && (isRoot || d.src == 0)
  | .bar => plain && d.efmt == 0 && d.root == 0 && none4 && count == 0 && d.src == 0 && d.dst == 0
  | .vote => true

/-- Order 3 of R216: reserved and zero fields, reserved values, values out of range. -/
def CollDesc.resvOk (d : CollDesc) (count : Nat) (axesOk : Bool) (l : Seat) (a : Active) : Bool :=
  natAt d.raw 1 1 < 32 && natAt d.raw 2 1 < 16 && natAt d.raw 3 1 == 0 && natAt d.raw 56 8 == 0 && d.axes != 0 &&
    d.red != 3 && (!d.norm || d.red == 0) && (d.norm || d.normAddr == 0) && axesOk &&
    d.zerosOk count (l.m == d.root) && (d.op != .rs || d.count % l.g == 0) && (d.op != .bc || d.root < l.g) &&
    (a.phases l).all fun ph => (List.range ph.g).all fun j => halfChunks (chunksOf (ph.bytes a l j)) false ≤ 32768

/-- Order 4: efmt. -/
def CollDesc.fmtOk (d : CollDesc) (moving : Nat) : Bool :=
  match d.op with
  | .bar => true
  | .ar | .rs => d.efmt == 6 || d.efmt == 5 || d.efmt == 0
  | _ => (Fmt.ofCode d.efmt).isSome && d.efmt != 3 && (!d.fused || d.efmt == moving)

/-- Order 5: alignment. -/
def CollDesc.alignOk (d : CollDesc) : Bool :=
  d.op == .bar || (d.src % d.es == 0 && d.dst % d.es == 0 && d.normAddr % 4 == 0 && d.cnt % 4 == 0)

/-- The ranges a collective addresses: address, bytes, whether written (R214, R346). -/
def CollDesc.ranges (d : CollDesc) (l : Seat) : List (Nat × Nat × Bool) :=
  let es := d.es
  let norm := if d.norm then [(d.normAddr, 4, true)] else []
  match d.op with
  | .ar => [(d.src, d.count * es, false), (d.dst, d.count * es, true)] ++ norm
  | .rs => (if d.fused then [] else [(d.src, d.count * es, false)]) ++ [(d.dst, d.count / l.g * es, true)] ++ norm
  | .ag => [(d.src, d.count * es, false)] ++ (if d.fused then [] else [(d.dst, l.g * d.count * es, true)])
  | .a2a => [(d.src, l.g * d.count * d.width * es, false), (d.cnt, 4 * l.g, false),
      (d.dst, l.g * d.cap * d.width * es + 4 * l.g, true)]
  | .bc => [(d.src, if l.m = d.root then d.count * es else 0, false), (d.dst, d.count * es, true)]
  | _ => []

/-- Order 8: inside a voting region every member of the communicator belongs to vote_comm (R81, R216). -/
def State.inVoteComm (s : State) (n : Core) (w : Word) : Bool :=
  match (s.core n).region with
  | none => true
  | some g =>
    !g.vote || (match s.commOn g.voteComm with
      | none => false
      | some (v, _) => (s.members (commAxes w)).all fun x => (s.members (commAxes v)).contains x)

/-- The signature of R333. -/
def collSig (fn comm ctl efmt root width count cap level gid : Nat) : BitVec 16 :=
  let w0 := BitVec.ofNat 64 (fn + comm * 2 ^ 8 + ctl * 2 ^ 16 + efmt * 2 ^ 24 + root * 2 ^ 32 + width * 2 ^ 48)
  let w2 := BitVec.ofNat 64 (cap + level * 2 ^ 32 + gid * 2 ^ 40)
  (mix64 (mix64 (mix64 w0 ^^^ BitVec.ofNat 64 count) ^^^ w2) >>> 48).truncate 16

/-! ### Packets of one key (R334) -/

/-- Count a packet dropped under R334 or R349 (R353). -/
def State.countDropped (s : State) : State := { s with coll := { s.coll with dropped := satAdd s.coll.dropped 1 } }

/-- What becomes of a packet of a key: it acts on an active collective, is held for one not started, or is dropped. -/
inductive Fate where
  | act (a : Active)
  | hold
  | drop

/-- The fate of a collective packet (R334). -/
def State.fateOf (s : State) (k : Packet) : Fate :=
  match s.commOn (chunkComm k) with
  | none => .drop
  | some (w, _) =>
    match s.coll.active.find? fun a => a.comm == chunkComm k && a.seq == k.ctx && a.r == chunkR k with
    | some a => .act a
    | none =>
      let c := s.core (commCore w)
      let r := c.rep.toNat
      let behind := c.seqBehind (chunkComm k) k.ctx
      if (chunkR k).toNat < r then .drop
      else if r < (chunkR k).toNat then
        if behind && (SMap.get CommSt.reset s.coll.comms (chunkComm k).toNat).ended.contains (k.ctx, chunkR k) then .drop
        else .hold
      else if behind then .drop
      else .hold

/-- Whether a chunk of a CL.AR is one of its gather and not of its reduction, which share their keys: the reduction does not
expect it or has had it, its length is not that of the partial, or its source has gone on, since a later chunk of the same
source and direction has come and no REREQ asked for this one (R308, R336, R347). -/
def Active.isGather (a : Active) (l : Seat) (k : ChunkKey) (len : Nat) : Bool :=
  match (a.phases l).find? fun ph => (ph.recvKeys a l k.dir).contains k with
  | none => true
  | some ph =>
    let n := ph.bytes a l (ph.recvOwner k.dir k.step)
    let later := (((a.schedule l).map Prod.snd).dropWhile fun q => q != k).drop 1
    (a.data k).isSome || len != min 4096 (n - 4096 * realChunk (chunksOf n) k.dir k.idx) ||
      (!(a.asked.any fun q => q.1 == k) && later.any fun q => a.flowNo q == a.flowNo k && (a.data q).isSome)

/-- A chunk acts on its collective: a wrong signature ends it, a chunk it has or does not expect is dropped, any other
is taken (R334, R336). -/
def State.takeChunk (s : State) (a : Active) (k : Packet) : State :=
  if chunkSig k != a.sig then s.endColl a .seqMismatch 3
  else
    let base : ChunkKey := { ctrl := false, gather := a.op == .ag, ph := chunkPh k, dir := chunkDir k
                             step := chunkStep k, idx := chunkIdx k, peer := 0 }
    let l := s.seat a
    let expected := fun (q : ChunkKey) => match a.phaseOf l q with
      | none => false
      | some ph => (ph.recvKeys a l q.dir).contains q
    let key := if a.op == .ar && a.isGather l base k.payload.length then { base with gather := true } else base
    if !expected key || (a.data key).isSome || s.sourceOf a key != k.src then s
    else s.pumpColl { a with got := a.got ++ [{ key := key, data := k.payload, mark := k.mark, freed := false }] }

/-- A CTRL acts on its collective: a wrong signature ends it, ABORT ends it with the carried status, ARRIVE and VOTE
count toward their phase (R334, R341, R349). -/
def State.takeCtrl (s : State) (a : Active) (k : Packet) : State :=
  if chunkSig k != a.sig then s.endColl a .seqMismatch 3
  else if ctrlSub k = 3 then
    match Status.ofCode (ctrlVal k) with
    | none => s
    | some st =>
      let (s, e) := ((s.writeDrops a).1.countFail st).takeColl a st 3
      match e with
      | none => s
      | some e => s.complete a.core e st
  else s.pumpColl (s.gotCtrl a k)

/-- The active collective of a key, as it now is. -/
def State.stillActive (s : State) (a : Active) : Option Active := s.coll.active.find? fun b => a.same b

/-- A starting collective meets the packets held for it, as if they had just arrived; a held ABORT comes first, since it
completes a collective that has not started when it starts (R334, R349). -/
def State.meetHeld (s : State) (a : Active) : State :=
  let x := SMap.get CommSt.reset s.coll.comms a.comm.toNat
  let mine := fun (k : Packet) => k.ctx == a.seq && chunkR k == a.r
  let s := s.modComm a.comm fun x =>
    { x with heldChunks := x.heldChunks.filter fun k => !mine k, heldCtrl := x.heldCtrl.filter fun k => !mine k }
  let act := fun (f : State → Active → Packet → State) (drop : State → Packet → State) (s : State) (k : Packet) =>
    match s.stillActive a with
    | some b => f s b k
    | none => drop s k
  let abort := fun (k : Packet) => ctrlSub k == 3
  let ctrl := (x.heldCtrl.filter fun k => mine k && abort k) ++ x.heldCtrl.filter fun k => mine k && !abort k
  let s := ctrl.foldl (act State.takeCtrl fun s _ => s.countDropped) s
  (x.heldChunks.filter mine).foldl (act State.takeChunk fun s k => s.countDropped.owePacket k) s

/-! ### Start (R215, R216, R335) -/

/-- How many collectives, sides and votes core n runs (R335). -/
def State.activeOn (s : State) (n : Core) : Nat := (s.coll.active.filter fun a => a.core == n).length

/-- A collective, or a collective side, that ends at its start with a status. -/
def State.endStart (s : State) (n : Core) (x : QEntry) (ring : Option Nat) (st : Status) : State :=
  if x.op.isFused then
    let s := (s.addRun n .cl x HwFault.sound Progress.zero).endRun n .cl x.id st
    match ring with
    | none => s
    | some i => s.modArch n fun a => (a.produce i x.id).releaseSide x st
  else s.complete n x st

/-- The input of an exchange: each member's piece, and the entries dropped (R346). -/
def a2aInput (d : CollDesc) (g : Nat) (src counts : List Byte) : List Byte × Nat :=
  let ent := d.width * d.es
  (List.range g).foldl (fun acc k =>
    let valid := min (natAt counts (4 * k) 4) d.count
    let sent := min valid d.cap
    let body := ((src.drop (k * d.count * ent)).take (sent * ent))
    (acc.1 ++ padTo (d.cap * ent) body ++ leBytes 4 sent, acc.2 + (valid - sent))) ([], 0)

/-- Read a collective's input as it starts: the state after, the status, the input and the entries dropped (R76, R348).
d: what the code finds at its first byte. -/
def State.collInput (s : State) (d : CollDesc) (l : Seat) (e : Ecc) : State × Status × List Byte × Nat :=
  let es := d.es
  if d.count = 0 || d.op == .bar || (d.op == .rs && d.fused) || (d.op == .bc && l.m != d.root) then (s, .ok, [], 0)
  else if d.op == .a2a then
    let (s, st, src) := s.readMem false d.src (l.g * d.count * d.width * es) e
    let (s, st2, cnt) := s.readMem false d.cnt (4 * l.g) .clean
    let hide := s.step.modeOn == 2 && s.onD (BitVec.ofNat 8 (natAt d.raw 0 1))
    let (inp, drops) := a2aInput d l.g src (if hide then [] else cnt)
    (s, Status.orElse st st2, inp, drops)
  else
    let (s, st, src) := s.readMem false d.src (d.count * es) e
    (s, st, src, 0)

/-- A collective that has passed its checks starts: it takes its sequence number, meets what is held for it, and goes
on (R215, R333 to R335, R348). -/
def State.beginColl (s : State) (n : Core) (x : QEntry) (d : CollDesc) (w : Word) (off : Nat) (e : Ecc)
    (ring : Option Nat) : State :=
  let c := s.core n
  let blank := d.active n x.id off
  let seq := SMap.get 0 c.seq blank.comm.toNat
  let sig := collSig d.op.code blank.comm.toNat (natAt d.raw 1 1) d.efmt d.root d.width d.count d.cap c.level.toNat
    (commGid w)
  let l := s.seat blank
  let s := s.modCore n fun c => { c with seq := SMap.put 0 c.seq blank.comm.toNat (seq + 1) }
  let (s, st, inp, drops) := s.collInput d l e
  let a := { blank with seq := seq, r := BitVec.ofNat 2 c.rep.toNat, sig := sig, input := inp, drops := drops
                        shadow := s.step.modeOn == 2 && s.onD blank.comm }
  let s := s.addRun n .cl x HwFault.sound Progress.zero
  let s := match ring with
    | none => s
    | some i => s.modArch n fun k => k.produce i x.id
  let s := { s with coll := { s.coll with active := s.coll.active ++ [a] } }
  let s := s.meetHeld a
  match s.stillActive a with
  | none => s
  | some a =>
    if s.fab.fenced || (s.members (s.collAxes a)).any s.fencedCoord then s.endColl a .fenced 3
    else if st != .ok then s.endColl a st 3
    else s.pumpColl a

/-- A collective or collective side starts: its descriptor is read and checked, in the order of R216, with the
communicator looked up before order 3 (R215, R523). -/
def State.startColl (s : State) (n : Core) (x : QEntry) (op : ClOp) (e d : Ecc) : State :=
  let fused := x.op.isFused
  let off := (if fused then x.c else x.a).toNat
  let ring := if fused && op == .ag then some (bitsOf x.w 47 44) else none
  match firstFail [(off % 64 == 0, cAlign), (off + 64 ≤ scratchSize, cSpace)] with
  | some k => s.coreFault n k x.pc
  | none =>
    let (s, st, raw) := s.readDesc n x.id off 64 e
    if st != .ok then s.endStart n x ring st
    else
      let bound := match s.commOn (BitVec.ofNat 8 (natAt raw 0 1)) with
        | some (w, _) => if commCore w = n then some w else none
        | none => none
      match bound with
      | none => ((s.writeScratch n (off + 36) (leBytes 4 0)).1.countFail .seqMismatch).endStart n x ring .seqMismatch
      | some w =>
        let dd := collDesc op fused raw
        let listed := dd.count
        let rows := match (s.core n).passDot x with
          | some p => bitsOf x.a 62 47 * p.n
          | none => 0
        let dd := if fused && op == .rs then { dd with count := rows } else dd
        let a := dd.active n x.id off
        let l := s.seat a
        let axesOk := (selectAxes w dd.axes).length == dd.axes % 2 + dd.axes / 2
        let rs := dd.ranges l
        let c := s.core n
        match firstFail [(dd.resvOk listed axesOk l a, cResv), (dd.fmtOk (bitsOf x.a 4 1), cFmt), (dd.alignOk, cAlign),
            (rs.all fun r => s.reach r.1 r.2.1, cSpace),
            (rs.all fun r => ownScratch n r.1 r.2.1 || c.covers r.2.2 r.1 r.2.1, cWindow), (s.inVoteComm n w, 0x0B)] with
        | some k => s.coreFault n k x.pc
        | none => s.beginColl n x dd w off d ring

/-- The operation of a CL queue entry. -/
def EngOp.clOp (o : EngOp) : Option ClOp :=
  match o with
  | .cl f => some f
  | .agSide => some .ag
  | .rsSide => some .rs
  | _ => none

/-- Whether a collective at the head of the CL queue may start: fewer than 8 run, the side of an MX.AG has its ring, and
the side of an MX.RS has a pass that has started, which gives it its count (R218, R219, R335). -/
def State.collMayStart (s : State) (n : Core) (x : QEntry) : Bool :=
  s.activeOn n < 8 && (x.op != .agSide || ((s.core n).arch.ringOf (bitsOf x.w 47 44)).prod.isNone) &&
    (x.op != .rsSide || (s.core n).mx.running.any fun y => y.e.id == x.id)

/-- A collective at the head of the CL queue starts (R215, R216, R335). e and d: what the code finds in the descriptor
and at the first byte of the input. -/
def execCollectiveStart (n : Core) (e d : Ecc) (s : State) : Host.Outcome State Fault Refusal :=
  .next <|
    match s.headOf n .cl with
    | none => s
    | some x =>
      if !x.act then (s.skipHead n .cl x).settle n
      else
        match x.op.clOp with
        | none => s
        | some f =>
          if s.collMayStart n x then (((s.modCore n fun c => c.takeHead .cl x).startColl n x f e d).settle n) else s

/-! ### Chunks (R334 to R347) -/

/-- The flow of a communicator toward a part on an axis and direction. -/
def State.flowOf (s : State) (c : Comm) (x : Coord) (ph dir : Bool) : Flow :=
  SMap.get Flow.reset (SMap.get CommSt.reset s.coll.comms c.toNat).flows (flowKey x ph dir)

/-- Change a flow. -/
def State.modFlow (s : State) (c : Comm) (x : Coord) (ph dir : Bool) (f : Flow → Flow) : State :=
  s.modComm c fun y =>
    { y with flows := SMap.put Flow.reset y.flows (flowKey x ph dir) (f (SMap.get Flow.reset y.flows (flowKey x ph dir))) }

/-- Whether a member holds a credit and window room for a chunk: one share of c credits per source, two where the axis
has two members and each direction is a source (R331, R342). -/
def State.maySend (s : State) (a : Active) (k : ChunkKey) (pair : Bool) : Bool :=
  match s.commOn a.comm with
  | none => false
  | some (w, slots) =>
    let c := creditsOf w slots.toNat
    let x := s.targetOf a k
    let f := s.flowOf a.comm x k.ph k.dir
    let other := if pair then 0 else (s.flowOf a.comm x k.ph (!k.dir)).spent
    f.spent + other < c && f.spent < c - f.cut

/-- The CHUNK packet of a key (R336). -/
def State.chunkPacket (s : State) (a : Active) (k : ChunkKey) (bs : List Byte) : Packet :=
  s.packet (s.targetOf a k) 3 4 0x20 (chunkArg a.comm a.r k.ph k.dir k.step k.idx a.sig) a.seq (bs.length - 1) bs

/-- Send chunk key of the first collective of the list that is due to send it: its phase has begun, its data is there,
and a credit and the window allow it (R335, R342). as: collectives of one communicator in sequence order. -/
def State.sendChunk (s : State) (key : ChunkKey) (as : List Active) : State :=
  match as with
  | [] => s
  | a :: rest =>
    let l := s.seat a
    let due := match a.nextSend l key with
      | some (ph, k) => if k == key && (begun a l (a.phases l)).any (fun q => q.kind == ph.kind && q.second == ph.second)
          then some ph else none
      | none => none
    match due with
    | none => if a.allSent l then s.sendChunk key rest else s
    | some ph =>
      match ph.sendData a l key with
      | none => s
      | some bs =>
        if !s.maySend a key (ph.g == 2) then s
        else
          let s := s.send (s.chunkPacket a key bs)
          let s := s.modFlow a.comm (s.targetOf a key) key.ph key.dir fun f => { f with spent := f.spent + 1 }
          (s.pumpColl { a with sent := a.sent ++ [key] }).settle a.core

/-- A member sends a CHUNK (R335, R342). -/
def execChunkSend (c : Comm) (key : ChunkKey) (s : State) : Host.Outcome State Fault Refusal :=
  .next (if s.fastOn && !key.ctrl then s.sendChunk key (s.coll.active.filter fun a => a.comm == c) else s)

/-- Whether a collective runs by control packets alone (R341, R523). -/
def Active.byCtrl (a : Active) : Bool := a.op == .vote || a.op == .bar || a.count == 0

/-- Whether a collective waits for a key, and from whom: the next chunk of a source and direction, or a CTRL of a phase
it has entered (R347). -/
def State.waitsFor (s : State) (a : Active) (key : ChunkKey) : Option Coord :=
  if key.ctrl then
    if a.byCtrl && a.sent.contains (ctrlKey key.ph key.peer) && !(a.ctrl.any fun c => c.1 == key.ph && c.2.1 == key.peer) then
      ((s.collAxes a).find? fun x => x.no == b2n key.ph).map fun x => s.peerOn x key.peer
    else none
  else if (a.awaited (s.seat a)).any fun x => x.2 == key then some (s.sourceOf a key)
  else none

/-- How many REREQs a collective has sent for a key. -/
def Active.askedFor (a : Active) (k : ChunkKey) : Nat := ((a.asked.find? fun x => x.1 == k).map Prod.snd).getD 0

/-- Whether a REREQ to a source is still outstanding for another key (R347). -/
def State.reqOut (s : State) (c : Comm) (x : Coord) (me : Active) (key : ChunkKey) : Bool :=
  s.coll.active.any fun a => a.comm == c && a.asked.any fun q => !(a.same me && q.1 == key) && s.waitsFor a q.1 == some x

/-- Whether a waiting packet is a CHUNK, REREQ or CTRL of a collective (R334). -/
def Active.mine (a : Active) (k : Packet) : Bool :=
  (k.kind == 4 || k.kind == 6 || k.kind == 7) && chunkComm k == a.comm && chunkR k == a.r && k.ctx == a.seq

/-- A wait ends without its chunk: the member asks again, and after the third REREQ the collective fails with TIMEOUT,
and what of it waits under inject_stop ends (R314, R347). -/
def execChunkWaitExpiry (c : Comm) (key : ChunkKey) (s : State) : Host.Outcome State Fault Refusal :=
  .next <|
    match s.coll.active.find? fun a => a.comm == c && (s.waitsFor a key).isSome with
    | none => s
    | some a =>
      match s.waitsFor a key with
      | none => s
      | some x =>
        if !s.fastOn then s
        else if a.askedFor key ≥ 3 then (((s.endWaiting a.mine).endColl a .timeout 3).standInOn c).settle a.core
        else if s.reqOut c x a key then s
        else
          let p := s.packet x 3 6 0x20 (chunkArg c a.r key.ph key.dir key.step key.idx a.sig) a.seq 0 []
          let asked := (key, a.askedFor key + 1) :: a.asked.filter fun q => q.1 != key
          let s := (s.send p).putActive { a with asked := asked }
          { s with coll := { s.coll with rereq := satAdd s.coll.rereq 1 } }

/-- A freed credit has waited 1 µs: what is owed to the source is returned (R342). -/
def execCreditBatchTimer (c : Comm) (src : Coord) (s : State) : Host.Outcome State Fault Refusal :=
  .next <|
    if s.fastOn then
      [(false, false), (false, true), (true, false), (true, true)].foldl (fun s x => s.payDebt c src x.1 x.2) s
    else s

/-- A CHUNK comes in (R334). -/
def execChunkReceive (p : Port) (k : Packet) (s : State) : Host.Outcome State Fault Refusal :=
  .next <| s.arrive p k 4 fun s =>
    match s.fateOf k with
    | .act a => (s.takeChunk a k).settle a.core
    | .hold => s.modComm (chunkComm k) fun x => { x with heldChunks := x.heldChunks ++ [k] }
    | .drop => if (s.commOn (chunkComm k)).isSome then s.countDropped.owePacket k else s.countDropped

/-- Credits come back: an echoed mark halves the window, at most once in a window's worth of credits, and a window's
worth of unmarked credits raises it by 1, up to c (R342). -/
def Flow.credited (f : Flow) (c n : Nat) (echo : Bool) : Flow :=
  let w := c - f.cut
  let f := { f with spent := f.spent - n }
  if echo then
    if f.wait = 0 then { f with cut := c - max 1 (w / 2), wait := w, run := 0 } else { f with wait := f.wait - n }
  else
    let f := { f with wait := f.wait - n, run := f.run + n }
    if f.run ≥ w then { f with run := f.run - w, cut := f.cut - 1 } else f

/-- A CREDIT comes in (R342). -/
def execCreditReceive (p : Port) (k : Packet) (s : State) : Host.Outcome State Fault Refusal :=
  .next <| s.arrive p k 5 fun s =>
    match s.commOn (chunkComm k) with
    | none => s.countDropped
    | some (w, slots) =>
      s.modFlow (chunkComm k) k.src (chunkPh k) (chunkDir k) fun f =>
        f.credited (creditsOf w slots.toNat) (chunkIdx k) k.echo

/-- Chunks sent after a key on its flow by its collective and later ones: while they are fewer than the credits still
spent, the key's credit has not returned (R347). -/
def State.sentAfter (s : State) (a : Active) (key : ChunkKey) : Nat :=
  let flow := fun (b : Active) (k : ChunkKey) => !k.ctrl && s.targetOf b k == s.targetOf a key && k.ph == key.ph && k.dir == key.dir
  let mine := ((a.sent.dropWhile fun k => k != key).drop 1).filter (flow a)
  let later := (s.coll.active.dropWhile fun b => !b.same a).drop 1
  mine.length + (later.map fun b => if b.comm == a.comm then (b.sent.filter (flow b)).length else 0).sum

/-- A REREQ acts on its collective: the chunk is sent again without a credit, or the CTRL again (R347). -/
def State.answerRereq (s : State) (a : Active) (k : Packet) : State :=
  if chunkSig k != a.sig then s.endColl a .seqMismatch 3
  else if a.byCtrl then
    match (s.collAxes a).find? fun x => x.no == b2n (chunkPh k) with
    | none => s
    | some x =>
      let q := coordAt k.src x.ax - x.base
      let done := (s.collAxes a).filter fun y => y.no < x.no
      let value := if a.op == .vote then a.ctrlValue done else 0
      if a.sent.contains (ctrlKey (chunkPh k) q) then
        s.send (s.ctrlPacket a k.src (chunkPh k) (if a.op == .vote then 2 else 1) value)
      else s
  else
    let l := s.seat a
    let key := fun (g : Bool) => ({ ctrl := false, gather := g, ph := chunkPh k, dir := chunkDir k, step := chunkStep k
                                    idx := chunkIdx k, peer := 0 } : ChunkKey)
    let held := fun (q : ChunkKey) => a.sent.contains q && s.targetOf a q == k.src &&
      s.sentAfter a q < (s.flowOf a.comm k.src q.ph q.dir).spent
    match [key false, key true].find? held with
    | none => s
    | some key =>
      match (a.phaseOf l key).bind fun ph => ph.sendData a l key with
      | none => s
      | some bs => s.send (s.chunkPacket a key bs)

/-- A REREQ comes in: a source that has not reached it drops it, one that has passed it also counts it (R334, R347). -/
def execRereqReceive (p : Port) (k : Packet) (s : State) : Host.Outcome State Fault Refusal :=
  .next <| s.arrive p k 6 fun s =>
    match s.fateOf k with
    | .act a => (s.answerRereq a k).settle a.core
    | .hold => s
    | .drop => s.countDropped

/-! ### Control packets (R341, R349) -/

/-- A CTRL of a subtype comes in: it acts, is held in the list of 16, or is dropped; an engine whose core has FAULTED or
STOPPED answers a VOTE for it (R80, R334, R341). -/
def State.ctrlArrives (s : State) (p : Port) (k : Packet) (sub : Nat) : State :=
  s.arrive p k 7 fun s =>
    if ctrlSub k != sub then s
    else
      match s.fateOf k with
      | .act a => ((s.takeCtrl a k).standInOn (chunkComm k)).settle a.core
      | .drop => s.countDropped
      | .hold =>
        if (SMap.get CommSt.reset s.coll.comms (chunkComm k).toNat).heldCtrl.length ≥ 16 then s.countDropped
        else (s.modComm (chunkComm k) fun x => { x with heldCtrl := x.heldCtrl ++ [k] }).standInOn (chunkComm k)

/-- An ARRIVE comes in (R341). -/
def execCtrlArriveReceive (p : Port) (k : Packet) (s : State) : Host.Outcome State Fault Refusal :=
  .next (s.ctrlArrives p k 1)

/-- A VOTE comes in (R341). -/
def execCtrlVoteReceive (p : Port) (k : Packet) (s : State) : Host.Outcome State Fault Refusal :=
  .next (s.ctrlArrives p k 2)

/-- An ABORT comes in (R349). -/
def execCtrlAbortReceive (p : Port) (k : Packet) (s : State) : Host.Outcome State Fault Refusal :=
  .next (s.ctrlArrives p k 3)

end Sys2Proof.Machine
end

