-- ==== Sys2Proof/Machine/Scalar.lean ====
section
/-! DEFINITION. Scalar, scalar memory, predicate and branch instructions (R195 to R198), the arrival of an instruction
line (R53) and the freeing of a queue place (R57). -/

namespace Sys2Proof.Machine

/-- A format R instruction: sd := f sa sb (R191, R195). -/
def State.scalarR (s : State) (n : Core) (w : BitVec 48) (f : Word → Word → Word) : State :=
  s.issueSeq n (firstFail [(clear w 29 0, cResv)]) fun c =>
    { c with arch := c.arch.setS (fSd w) (f (c.arch.sreg (fSa w)) (c.arch.sreg (fSb w))) }

/-- A format I instruction: sd := f sa, with a further condition on its fields (R191, R195). -/
def State.scalarI (s : State) (n : Core) (w : BitVec 48) (ok : Bool) (f : Word → Word) : State :=
  s.issueSeq n (firstFail [(clear w 35 32 && ok, cResv)]) fun c =>
    { c with arch := c.arch.setS (fSd w) (f (c.arch.sreg (fSa w))) }

/-- S.ADD: sd := sa + sb (R195). -/
def execSAdd (n : Core) (w : BitVec 48) (s : State) : Host.Outcome State Fault Refusal :=
  .next (s.scalarR n w fun a b => a + b)

/-- S.SUB: sd := sa − sb (R195). -/
def execSSub (n : Core) (w : BitVec 48) (s : State) : Host.Outcome State Fault Refusal :=
  .next (s.scalarR n w fun a b => a - b)

/-- S.MUL: sd := low 64 bits of sa × sb (R195). -/
def execSMul (n : Core) (w : BitVec 48) (s : State) : Host.Outcome State Fault Refusal :=
  .next (s.scalarR n w fun a b => a * b)

/-- S.AND (R195). -/
def execSAnd (n : Core) (w : BitVec 48) (s : State) : Host.Outcome State Fault Refusal :=
  .next (s.scalarR n w fun a b => a &&& b)

/-- S.OR (R195). -/
def execSOr (n : Core) (w : BitVec 48) (s : State) : Host.Outcome State Fault Refusal :=
  .next (s.scalarR n w fun a b => a ||| b)

/-- S.XOR (R195). -/
def execSXor (n : Core) (w : BitVec 48) (s : State) : Host.Outcome State Fault Refusal :=
  .next (s.scalarR n w fun a b => a ^^^ b)

/-- S.SHL by sb mod 64 (R195). -/
def execSShl (n : Core) (w : BitVec 48) (s : State) : Host.Outcome State Fault Refusal :=
  .next (s.scalarR n w fun a b => a <<< (b.toNat % 64))

/-- S.SHR, logical, by sb mod 64 (R195). -/
def execSShr (n : Core) (w : BitVec 48) (s : State) : Host.Outcome State Fault Refusal :=
  .next (s.scalarR n w fun a b => a >>> (b.toNat % 64))

/-- S.SAR, arithmetic, by sb mod 64 (R195). -/
def execSSar (n : Core) (w : BitVec 48) (s : State) : Host.Outcome State Fault Refusal :=
  .next (s.scalarR n w fun a b => a.sshiftRight (b.toNat % 64))

/-- S.MIN, signed (R195). -/
def execSMin (n : Core) (w : BitVec 48) (s : State) : Host.Outcome State Fault Refusal :=
  .next (s.scalarR n w fun a b => if b.slt a then b else a)

/-- S.MAX, signed (R195). -/
def execSMax (n : Core) (w : BitVec 48) (s : State) : Host.Outcome State Fault Refusal :=
  .next (s.scalarR n w fun a b => if a.slt b then b else a)

/-- S.MINU, unsigned (R195). -/
def execSMinu (n : Core) (w : BitVec 48) (s : State) : Host.Outcome State Fault Refusal :=
  .next (s.scalarR n w fun a b => if b.ult a then b else a)

/-- S.MAXU, unsigned (R195). -/
def execSMaxu (n : Core) (w : BitVec 48) (s : State) : Host.Outcome State Fault Refusal :=
  .next (s.scalarR n w fun a b => if a.ult b then b else a)

/-- S.ADDI: sd := sa + sext(imm32) (R195). -/
def execSAddi (n : Core) (w : BitVec 48) (s : State) : Host.Outcome State Fault Refusal :=
  .next (s.scalarI n w true fun a => a + fImmS w)

/-- S.LI: sd := sext(imm32); sa must be zero (R195). -/
def execSLi (n : Core) (w : BitVec 48) (s : State) : Host.Outcome State Fault Refusal :=
  .next (s.scalarI n w (clear w 41 36) fun _ => fImmS w)

/-- S.LUI: sd := (imm32 shl 32) or the low half of sa (R195). -/
def execSLui (n : Core) (w : BitVec 48) (s : State) : Host.Outcome State Fault Refusal :=
  .next (s.scalarI n w true fun a => (fImmU w <<< 32) ||| (a &&& 0xFFFFFFFF))

/-- S.ANDI with zext(imm32) (R195). -/
def execSAndi (n : Core) (w : BitVec 48) (s : State) : Host.Outcome State Fault Refusal :=
  .next (s.scalarI n w true fun a => a &&& fImmU w)

/-- S.ORI with zext(imm32) (R195). -/
def execSOri (n : Core) (w : BitVec 48) (s : State) : Host.Outcome State Fault Refusal :=
  .next (s.scalarI n w true fun a => a ||| fImmU w)

/-- S.SHLI; an imm32 above 63 is reserved (R195). -/
def execSShli (n : Core) (w : BitVec 48) (s : State) : Host.Outcome State Fault Refusal :=
  .next (s.scalarI n w (bitsOf w 31 0 ≤ 63) fun a => a <<< bitsOf w 31 0)

/-- S.SHRI; an imm32 above 63 is reserved (R195). -/
def execSShri (n : Core) (w : BitVec 48) (s : State) : Host.Outcome State Fault Refusal :=
  .next (s.scalarI n w (bitsOf w 31 0 ≤ 63) fun a => a >>> bitsOf w 31 0)

/-- The byte offset of a scalar memory instruction: sa + sext(imm32) (R196). -/
def memOff (a : CoreArch) (w : BitVec 48) : Word := a.sreg (fSa w) + fImmS w

/-- The checks of a scalar memory instruction: reserved bits, then an offset beyond the scratch, then alignment
(R190, R196). -/
def memChk (a : CoreArch) (w : BitVec 48) (size : Nat) : Option (BitVec 8) :=
  let o := (memOff a w).toNat
  firstFail [(clear w 35 32, cResv), (o < scratchSize, cSpace), (o % size == 0, cAlign)]

/-- A scalar load of size bytes: sd takes the bytes, or stays as it was where they fail their code, which sets the ecc
flag and makes a region dirty (R196, R518). -/
def State.scalarLoad (s : State) (n : Core) (w : BitVec 48) (size : Nat) (e : Ecc) : State :=
  s.issue n (memChk (s.core n).arch w size) fun s =>
    let (t, st, bs) := s.readScratch n (memOff (s.core n).arch w).toNat size e
    t.modCore n fun c =>
      if st = .ok then ({ c with arch := c.arch.setS (fSd w) (BitVec.ofNat 64 (leNat bs)) }).advance
      else (c.note st).advance

/-- A scalar store of the low size bytes of sd; into a poisoned word it is made, leaves the word poisoned and counts as
R196 and R518 state. -/
def State.scalarStore (s : State) (n : Core) (w : BitVec 48) (size : Nat) : State :=
  s.issue n (memChk (s.core n).arch w size) fun s =>
    let a := (s.core n).arch
    let s := s.modCore n fun c => c.noteStale (memOff a w).toNat
    let (t, bad) := s.writeScratch n (memOff a w).toNat (leBytes size (a.sreg (fSd w)).toNat)
    t.modCore n fun c => (if bad then c.note .eccUncorrectable else c).advance

/-- S.LDB (R196). -/
def execSLdb (n : Core) (w : BitVec 48) (e : Ecc) (s : State) : Host.Outcome State Fault Refusal :=
  .next (s.scalarLoad n w 1 e)

/-- S.LDH (R196). -/
def execSLdh (n : Core) (w : BitVec 48) (e : Ecc) (s : State) : Host.Outcome State Fault Refusal :=
  .next (s.scalarLoad n w 2 e)

/-- S.LDW (R196). -/
def execSLdw (n : Core) (w : BitVec 48) (e : Ecc) (s : State) : Host.Outcome State Fault Refusal :=
  .next (s.scalarLoad n w 4 e)

/-- S.LDD (R196). -/
def execSLdd (n : Core) (w : BitVec 48) (e : Ecc) (s : State) : Host.Outcome State Fault Refusal :=
  .next (s.scalarLoad n w 8 e)

/-- S.STB (R196). -/
def execSStb (n : Core) (w : BitVec 48) (s : State) : Host.Outcome State Fault Refusal := .next (s.scalarStore n w 1)

/-- S.STH (R196). -/
def execSSth (n : Core) (w : BitVec 48) (s : State) : Host.Outcome State Fault Refusal := .next (s.scalarStore n w 2)

/-- S.STW (R196). -/
def execSStw (n : Core) (w : BitVec 48) (s : State) : Host.Outcome State Fault Refusal := .next (s.scalarStore n w 4)

/-- S.STD (R196). -/
def execSStd (n : Core) (w : BitVec 48) (s : State) : Host.Outcome State Fault Refusal := .next (s.scalarStore n w 8)

/-! ### Predicates (R197) -/

/-- The condition of code cc on two scalars: EQ, NE, LT, GE, LTU, GEU (R197). -/
def condHolds (cc : Nat) (a b : Word) : Bool :=
  match cc with
  | 0 => a == b | 1 => a != b | 2 => a.slt b | 3 => !a.slt b | 4 => a.ult b | _ => !a.ult b

/-- pd of format P. -/
def fPd (w : BitVec 48) : Nat := bitsOf w 47 45
/-- cc of format P. -/
def fCc (w : BitVec 48) : Nat := bitsOf w 38 35

/-- P.CMP pd, sa, sb, cc (R197). -/
def execPCmp (n : Core) (w : BitVec 48) (s : State) : Host.Outcome State Fault Refusal :=
  .next (s.issueSeq n (firstFail [(clear w 44 39 && clear w 22 0 && fCc w ≤ 5, cResv)]) fun c =>
    let v := condHolds (fCc w) (c.arch.sreg (bitsOf w 34 29)) (c.arch.sreg (bitsOf w 28 23))
    { c with arch := c.arch.setP (fPd w) v })

/-- P.CMPI pd, sa, imm16, cc (R197). -/
def execPCmpi (n : Core) (w : BitVec 48) (s : State) : Host.Outcome State Fault Refusal :=
  .next (s.issueSeq n (firstFail [(clear w 44 39 && clear w 28 16 && fCc w ≤ 5, cResv)]) fun c =>
    let v := condHolds (fCc w) (c.arch.sreg (bitsOf w 34 29)) ((fImm16 w).signExtend 64)
    { c with arch := c.arch.setP (fPd w) v })

/-- P.LOG pd, pa, pb, cc: bit 2 × pa + pb of cc (R197). -/
def execPLog (n : Core) (w : BitVec 48) (s : State) : Host.Outcome State Fault Refusal :=
  .next (s.issueSeq n (firstFail [(clear w 34 0, cResv)]) fun c =>
    let pa := c.arch.pred (bitsOf w 44 42)
    let pb := c.arch.pred (bitsOf w 41 39)
    { c with arch := c.arch.setP (fPd w) (bitOf (BitVec.ofNat 4 (fCc w)) (2 * b2n pa + b2n pb)) })

/-! ### Branches (R198) -/

/-- Whether a branch is taken: p(pidx) XOR pinv (R198). -/
def taken (a : CoreArch) (w : BitVec 48) : Bool := a.pred (bitsOf w 46 44) != bitOf w 47

/-- Whether an address lies in the Welt or Insole, where programs may lie (R53, R198). -/
def State.inCode (s : State) (a : Nat) : Bool := s.space a == some 0 || s.space a == some 1

/-- A branch: where taken, a misaligned target faults with 0x04 and one outside the Welt and Insole with 0x0D, both at
the branch; otherwise sd takes the return address where link names one, and issue goes on at the target (R198). -/
def State.branch (s : State) (n : Core) (w : BitVec 48) (ok : Bool) (link : Option Nat)
    (target : CoreArch → Word) : State :=
  s.issue n (firstFail [(ok, cResv)]) fun s =>
    let a := (s.core n).arch
    if taken a w then
      let t := target a
      match firstFail [(t.toNat % 8 == 0, cAlign), (s.inCode t.toNat, cSpace)] with
      | some c => s.coreFault n c a.pc
      | none => s.modCore n fun c =>
          let x := match link with
            | some sd => c.arch.setS sd (a.pc + 8)
            | none => c.arch
          ({ c with arch := x }).goto t
    else s.modCore n CoreSt.advance

/-- The target of a relative branch: pc + 8 × off, off signed (R191, R198). -/
def relTarget (w : BitVec 48) (a : CoreArch) : Word := a.pc + 8 * fImmS w

/-- BR off (R198). -/
def execBr (n : Core) (w : BitVec 48) (s : State) : Host.Outcome State Fault Refusal :=
  .next (s.branch n w (clear w 43 32) none (relTarget w))

/-- JR sa (R198). -/
def execJr (n : Core) (w : BitVec 48) (s : State) : Host.Outcome State Fault Refusal :=
  .next (s.branch n w (clear w 43 38 && clear w 31 0) none fun a => a.sreg (bitsOf w 37 32))

/-- CALL sd, off (R198). -/
def execCall (n : Core) (w : BitVec 48) (s : State) : Host.Outcome State Fault Refusal :=
  .next (s.branch n w (clear w 37 32) (some (bitsOf w 43 38)) (relTarget w))

/-- CALLR sd, sa (R198). -/
def execCallr (n : Core) (w : BitVec 48) (s : State) : Host.Outcome State Fault Refusal :=
  .next (s.branch n w (clear w 31 0) (some (bitsOf w 43 38)) fun a => a.sreg (bitsOf w 37 32))

/-! ### Fetch and queue places -/

/-- Whether a core that waits for something may go on: its clocks run, it is RUNNING, in service and not stopping. -/
def State.live (s : State) (n : Core) : Bool :=
  let c := s.core n
  s.fastOn && c.reg.run == .running && !c.stopping && c.phase == .service

/-- A 64 B line arrives in the instruction buffer of 1,024 lines, the oldest line making room, and issue held for it
resumes; a launched program starts when its cluster is awake. A fetch from another space faults with 0x0D, one that meets
uncorrectable data with 0x09 (R53, R54, R75, R468). -/
def execInstructionLineFetch (n : Core) (line : BitVec 58) (e : Ecc) (s : State) :
    Host.Outcome State Fault Refusal :=
  .next <|
    if (s.core n).hold == .line line && s.live n && s.clk.gate[clusterOf n] == .on then
      let a := line.toNat * 64
      let pc := (s.core n).arch.pc
      if !s.inCode a then s.coreFault n cSpace pc
      else if !s.serves a then s
      else
        let (t, st, raw) := s.readMem false a 64 e
        if st = .ok then t.modCore n fun c =>
          let ibuf := (if c.ibuf.length < 1024 then c.ibuf else c.ibuf.drop 1) ++ [line]
          { c with ibuf := ibuf, code := (c.code.filter fun x => ibuf.contains x.1 && x.1 != line) ++ [(line, raw)]
                   hold := .none }
        else t.coreFault n 0x09 pc
    else s

/-- A place has freed in the queue that holds issue: the stalled instruction takes it (R57, R217). -/
def execIssueQueuePlaceFreed (n : Core) (s : State) : Host.Outcome State Fault Refusal :=
  .next <|
    match (s.core n).hold with
    | .place q e =>
      if s.live n && (s.core n).hasPlace q e then s.modCore n fun c => (c.place q e).advance else s
    | _ => s

end Sys2Proof.Machine
end

