-- ==== Sys2Proof/Machine/Region.lean ====
section
/-! DEFINITION. Layer regions: opening, closing, the region vote and its outcome, and repeats (R77 to R81, R333,
R341). -/

namespace Sys2Proof.Machine

/-- Cause 0x06: region misuse (R75). -/
def cRegion : BitVec 8 := 0x06

/-! ### Opening (R77, R78) -/

/-- LYR.OPEN sa: it holds issue until earlier work has completed (R78, R200). -/
def execLyrOpen (n : Core) (w : BitVec 48) (s : State) : Host.Outcome State Fault Refusal :=
  let a := (s.core n).arch.sreg (fSa w)
  .next (s.issueHold n (firstFail [(clear w 47 42 && clear w 35 0, cResv), (a.toNat % 8 == 0, cAlign),
    ((s.core n).region.isNone, cRegion)]) fun _ => .lyrOpen a)

/-- Whether n bytes at a meet m bytes at b. -/
def meets (a n b m : Nat) : Bool := a < b + m && b < a + n && n != 0 && m != 0

/-- The window ranges in use of a region descriptor: k ranges from an offset (R77). -/
def rangesAt (raw : List Byte) (off k : Nat) : List (Word × Word) :=
  (List.range k).map fun i => (BitVec.ofNat 64 (natAt raw (off + 16 * i) 8), BitVec.ofNat 64 (natAt raw (off + 16 * i + 8) 8))

/-- Whether the reserved bits of a descriptor's first 8 bytes are zero (R77). -/
def regionResv (raw : List Byte) : Bool := natAt raw 2 1 < 4 && natAt raw 3 1 < 16 && natAt raw 7 1 == 0

/-- Whether a descriptor's fields lie in their ranges and no read range overlaps a write range (R77). -/
def regionOk (raw : List Byte) : Bool :=
  let rd := rangesAt raw 8 (natAt raw 5 1)
  let wr := rangesAt raw 72 (natAt raw 6 1)
  natAt raw 3 1 ≤ 3 && natAt raw 5 1 ≤ 4 && natAt raw 6 1 ≤ 4 &&
    (rd ++ wr).all (fun x => x.1.toNat % 64 == 0 && x.2.toNat % 64 == 0) &&
    rd.all fun x => wr.all fun y => !meets x.1.toNat x.2.toNat y.1.toNat y.2.toNat

/-- What LYR.OPEN saves; a repeat resumes at the instruction after it (R78, R80). -/
def CoreSt.snapshot (c : CoreSt) : Snapshot :=
  { s := c.arch.s, p := c.arch.p, v := c.arch.v, m := c.arch.m, sem := c.arch.sem, st := c.arch.st, seq := c.seq
    pc := c.arch.pc + 8 }

/-- The region opens with repeat index 0: rings and banks empty, heel zero, the snapshot taken (R78). -/
def CoreSt.openRegion (c : CoreSt) (raw : List Byte) : CoreSt :=
  let c := { c with arch := c.arch.emptied, packs := 0 }
  let g : Region :=
    { id := BitVec.ofNat 16 (natAt raw 0 2), vote := natAt raw 2 1 % 2 == 1, careful := natAt raw 2 1 / 2 % 2 == 1
      limit := BitVec.ofNat 4 (natAt raw 3 1), voteComm := BitVec.ofNat 8 (natAt raw 4 1)
      rd := rangesAt raw 8 (natAt raw 5 1), wr := rangesAt raw 72 (natAt raw 6 1), r := 0, first := none, nan := false
      overflow := false, voteResult := none, snap := c.snapshot }
  { c with region := some g, reg := { c.reg with regionId := g.id } }

/-- Earlier work has completed: the descriptor is read and checked, its reserved fields first, and the region opens or the
core faults (R77, R78). e: what the code finds in the descriptor's first word. -/
def execLyrOpenComplete (n : Core) (e : Ecc) (s : State) : Host.Outcome State Fault Refusal :=
  .next <|
    match (s.core n).hold with
    | .lyrOpen a =>
      if !(s.live n && (s.core n).allIdle) then s
      else
        let pc := (s.core n).arch.pc
        if !ownScratch n a.toNat 8 then s.coreFault n cRegion pc
        else
          let (s, st, head) := s.readMem false a.toNat 8 e
          if st != .ok then s.coreFault n cRegion pc
          else if !regionResv head then s.coreFault n cResv pc
          else if !ownScratch n a.toNat 136 then s.coreFault n cRegion pc
          else
            let (s, st, raw) := s.readMem false a.toNat 136 .clean
            if st != .ok || !regionOk raw then s.coreFault n cRegion pc else s.resume n fun c => c.openRegion raw
    | _ => s

/-! ### Closing (R79, R80) -/

/-- The local outcome: 0 clean, 1 repeat, 2 exhausted, 3 dirty (R79, R341). -/
def Region.outcome (g : Region) : Nat :=
  if g.first.isSome || g.nan then 3
  else if g.overflow then (if g.r < g.limit then 1 else 2)
  else 0

/-- The region of core n votes its local outcome through the collective engine, under the next sequence number of its
communicator; the signature carries function 6 and the region's identifier (R80, R333, R341). A communicator that is not
bound to the core ends the vote with SEQ_MISMATCH. -/
def State.startRegionVote (s : State) (n : Core) (g : Region) : State :=
  let bound := match s.commOn g.voteComm with
    | some (w, _) => commCore w == n
    | none => false
  if !bound then
    (s.countFail .seqMismatch).modCore n fun c => { c with region := some { g with voteResult := some (.seqMismatch, 3) } }
  else
    let seq := SMap.get 0 (s.core n).seq g.voteComm.toNat
    let sig := collSig 6 0 0 0 0 0 g.id.toNat 0 0 0
    let a := { Active.blank n g.voteComm seq (BitVec.ofNat 2 g.r.toNat) sig .vote with
      axes := 3, vote := BitVec.ofNat 8 g.outcome }
    let s := s.modCore n fun c => { c with seq := SMap.put 0 c.seq g.voteComm.toNat (seq + 1) }
    let s := { s with coll := { s.coll with active := s.coll.active ++ [a] } }
    let s := s.meetHeld a
    match s.stillActive a with
    | none => s
    | some a =>
      if s.fab.fenced || (s.members (s.collAxes a)).any s.fencedCoord then s.endColl a .fenced 3
      else s.pumpColl a

/-- Once the region's work has completed, LYR.CLOSE forms the local outcome and, in a voting region, votes (R79,
R80). -/
def State.beginClose (s : State) (n : Core) (sd : BitVec 6) : State :=
  match (s.core n).region with
  | none => s
  | some g =>
    let s := s.modCore n fun c => { c with hold := .closing sd }
    if g.vote then s.startRegionVote n g else s

/-- LYR.CLOSE sd (R79, R200). -/
def execLyrClose (n : Core) (w : BitVec 48) (s : State) : Host.Outcome State Fault Refusal :=
  .next <| s.issue n (firstFail [(clear w 41 0, cResv), ((s.core n).region.isSome, cRegion)]) fun s =>
    let sd := BitVec.ofNat 6 (fSd w)
    if (s.core n).allIdle then s.beginClose n sd
    else s.modCore n fun c => { c with hold := .lyrClose sd }

/-- How a region ends: it repeats, or it closes with a status for sd and a health flag. -/
inductive RegionEnd where
  | again
  | close (st : Status) (flag : BitVec 8)
deriving DecidableEq, Repr

/-- The row of R80's table that applies: vote is the status and the combined outcome of the region vote. NaN decides
before the first status that is not OK. -/
def Region.ending (g : Region) (vote : Status × Nat) : RegionEnd :=
  if g.nan then .close .nanInRegion Status.nanInRegion.flag
  else
    match g.first with
    | some st => .close st st.flag
    | none =>
      if vote.1 != .ok then .close vote.1 vote.1.flag
      else if vote.2 = 0 then .close .ok 0
      else if vote.2 = 1 then .again
      else if vote.2 = 2 then .close .overflowRepeatExhausted Status.overflowRepeatExhausted.flag
      else .close .aborted Status.aborted.flag

/-- A repeat: r rises, rings, banks and heel are emptied, the snapshot is restored, and issue resumes after LYR.OPEN
(R80, R181). -/
def CoreSt.repeatRegion (c : CoreSt) (g : Region) : CoreSt :=
  let q := g.snap
  let a := { c.arch with s := q.s, p := q.p, v := q.v, m := q.m, sem := q.sem, st := q.st }
  let g := { g with r := g.r + 1, first := none, nan := false, overflow := false, voteResult := none }
  ({ c with arch := a.emptied, seq := q.seq, packs := 0, region := some g }).goto q.pc

/-- The region closes with a status in sd and its flag (R80, R181). -/
def CoreSt.closeRegion (c : CoreSt) (sd : Nat) (st : Status) (flag : BitVec 8) : CoreSt :=
  let c := { c.setFlags flag with region := none, packs := 0 }
  ({ c with arch := c.arch.setS sd (BitVec.ofNat 64 st.code) }).advance

/-- Signals of the Clicker put off while a region of its bound core was open are made once it has closed (R406). -/
def State.lateSignals (s : State) (n : Core) : State :=
  match s.commOn s.ing.gComm with
  | none => s
  | some (w, _) =>
    if commCore w = n then
      let k := s.ing.later
      forN k (fun _ s => s.clickerSignal) { s with ing := { s.ing with later := 0 } }
    else s

/-- LYR.CLOSE acts on the outcome, once it is known (R79, R80). -/
def State.endRegion (s : State) (n : Core) (sd : BitVec 6) : State :=
  match (s.core n).region with
  | none => s
  | some g =>
    let vote := if g.vote then g.voteResult.map fun v => (v.1, v.2.toNat) else some (Status.ok, g.outcome)
    match vote with
    | none => s
    | some v =>
      match g.ending v with
      | .again => s.modCore n fun c => c.repeatRegion g
      | .close st flag =>
        let s := s.modCore n fun c => c.closeRegion sd.toNat st flag
        let s := if st = .nanInRegion && s.awl.onNan then s.driveFreeze 5 n.val else s
        s.lateSignals n

/-- The region's work has completed and its vote, if any, is known: it closes or repeats (R79, R80). -/
def execLyrCloseOutcome (n : Core) (s : State) : Host.Outcome State Fault Refusal :=
  .next <|
    if !s.live n then s
    else
      match (s.core n).hold with
      | .lyrClose sd => if (s.core n).allIdle then (s.beginClose n sd).endRegion n sd else s
      | .closing sd => s.endRegion n sd
      | _ => s

end Sys2Proof.Machine
end

