-- ==== Sys2Proof/Machine/Communicators.lean ====
section
/-! DEFINITION. The commands that configure the collective engine (R331, R332, R351 to R355). -/

namespace Sys2Proof.Machine

/-- Slots of a communicator's pool in effect (R331). -/
def CommSt.pool (x : CommSt) : Nat :=
  match x.on with
  | some (_, k) => k.toNat
  | none => 0

/-- A communicator's registers and configuration. -/
def State.comm (s : State) (c : Comm) : CommSt := SMap.get CommSt.reset s.coll.comms c.toNat

/-- The result of the check of a communicator's written values (R332). -/
def State.commCheck (s : State) (c : Comm) (w : Word) (slots : Nat) : Nat :=
  let axes := commAxes w
  let others := ((s.coll.comms.filter fun x => x.1 != c.toNat).map fun x => x.2.pool).sum
  if axes.any fun a => coordAt s.coord a.ax < a.base || a.base + a.g ≤ coordAt s.coord a.ax then 1
  else if axes.any fun a => a.g == 0 || a.g > s.extentWritten a.ax then 2
  else if creditsOf w slots < 2 then 3
  else if others + slots > (s.welt.resOn[classIdx .col]).res.toNat then 4
  else if (axes.any (fun a => a.no == 1) && !axes.any fun a => a.no == 0) ||
      axes.any fun a => axes.any fun b => a.no != b.no && a.ax == b.ax then 5
  else 0

/-- Whether a collective of a communicator waits in a queue: its descriptor names the communicator (R57, R214). -/
def State.collQueued (s : State) (c : Comm) : Bool :=
  s.cores.toList.any fun k => k.cl.waiting.any fun x =>
    k.arch.scratch.read (if x.op.isFused then x.c else x.a).toNat == c

/-- Whether a communicator may be changed: neither bound core runs, and no collective of it is queued or active (R332). -/
def State.commQuiet (s : State) (c : Comm) : Bool :=
  let x := s.comm c
  let old := match x.on with
    | some (w, _) => (s.core (commCore w)).busy
    | none => false
  !old && !(s.core (commCore x.comm)).busy && !s.collQueued c && !s.coll.active.any fun a => a.comm == c

/-- The blocks of the COL class after a pool of a blocks has become one of b (R230, R332). -/
def Welt.resizePool (w : Welt) (a b : Nat) : Welt :=
  let u := w.use[classIdx .col]
  let k := u.used - a + b
  { w with use := vput w.use (classIdx .col) { u with used := k, peak := max u.peak k } }

/-- A communicator with nothing held, owed or sent. -/
def CommSt.cleared (x : CommSt) (on : Option (Word × BitVec 16)) : CommSt :=
  { x with on := on, heldChunks := [], heldCtrl := [], flows := [], debts := [], ended := [] }

/-- Note the outcome of an apply. -/
def State.applied (s : State) (c : Comm) (err : Nat) : State :=
  { s with coll := { s.coll with cdef := c, lastStatus := .ok, cfgErr := BitVec.ofNat 4 err } }

/-- A write of CLE_CTRL with apply: configure, change or remove a communicator (R332). -/
def execCleApply (cdef : Comm) (s : State) : Host.Outcome State Fault Refusal :=
  .next <|
    let x := s.comm cdef
    if !s.commQuiet cdef then { s with coll := { s.coll with cdef := cdef, lastStatus := .busy } }
    else if !bitOf x.comm 40 then
      let s := { s.applied cdef 0 with welt := s.welt.resizePool x.pool 0 }
      s.modComm cdef fun x => x.cleared none
    else
      let err := s.commCheck cdef x.comm x.slots.toNat
      let s := s.applied cdef err
      if err ≠ 0 then s
      else
        let s := { s with welt := s.welt.resizePool x.pool x.slots.toNat }
        let s := s.modCore (commCore x.comm) fun k => { k with seq := SMap.put 0 k.seq cdef.toNat 0 }
        s.modComm cdef fun x => x.cleared (some (x.comm, x.slots))

/-- Clear CLE_STAT (R351, R353). -/
def execCleClrCnt (s : State) : Host.Outcome State Fault Refusal :=
  .next { s with coll := { s.coll with rereq := 0, timeouts := 0, seqMm := 0, dropped := 0 } }

end Sys2Proof.Machine
end

