-- ==== Sys2Proof/Machine/Demux.lean ====
section
/-! DEFINITION. The demultiplexer (R393, R402): transport packets, the programs that PAT and PMT list, and the PES packets of a
program's audio streams. The places of fields within packets and tables, and the type codes of audio streams, are those of
ISO/IEC 13818-1 and of its registrations (PRESUMED, log 132). -/

namespace Sys2Proof.Machine

/-- The number a big-endian byte string holds. -/
def natBE (bs : List Byte) (off n : Nat) : Nat := leNat (((bs.drop off).take n).reverse)

/-! ### Transport packets -/

/-- A transport packet: whether it is discarded, its PID, whether a PES packet or a section begins in it, its continuity
counter, whether it carries payload, whether a discontinuity is announced, and the payload. -/
structure Ts where
  bad : Bool
  pid : Nat
  start : Bool
  cc : Nat
  full : Bool
  jump : Bool
  data : List Byte
deriving DecidableEq, Repr

/-- Read a packet of 188 B: one whose sync byte is wrong, that its sender marked in error, or that is scrambled is discarded
(R393). -/
def tsOf (b : List Byte) : Ts :=
  let flags := natAt b 3 1
  let field := flags / 32 % 2 == 1
  let len := natAt b 4 1
  { bad := natAt b 0 1 != 0x47 || natAt b 1 1 / 128 % 2 == 1 || flags / 64 != 0
    pid := natBE b 1 2 % 8192, start := natAt b 1 1 / 64 % 2 == 1, cc := flags % 16, full := flags / 16 % 2 == 1
    jump := field && len != 0 && natAt b 5 1 / 128 % 2 == 1, data := b.drop (if field then 5 + len else 4) }

/-- The packets of a segment: 188 B each, or 192 B with a prefix of 4 B that is ignored (R391). -/
def tsPackets (pkt : Nat) (bs : List Byte) : List Ts :=
  let size := if pkt = 1 then 192 else 188
  (List.range (bs.length / size)).map fun i => tsOf ((bs.drop (i * size + (size - 188))).take 188)

/-- Whether a packet that follows one of continuity counter c repeats it. -/
def Ts.again (x : Ts) (c : Nat) : Bool := x.full && !x.jump && x.cc == c

/-- Go through the packets: what is discarded and every continuity gap is counted; discarded packets and repetitions are left
out, and the packets around a gap are kept (R393). ccs: the last counter of each PID, plus 1. -/
def tsSift (ps : List Ts) (ccs : SMap Nat) : Nat × List Ts :=
  match ps with
  | [] => (0, [])
  | x :: r =>
    if x.bad then
      let y := tsSift r ccs
      (y.1 + 1, y.2)
    else
      let last := SMap.get 0 ccs x.pid
      if x.pid = 0x1FFF || !x.full then
        let y := tsSift r ccs
        (y.1, if x.pid = 0x1FFF then y.2 else x :: y.2)
      else if last != 0 && x.again (last - 1) then tsSift r ccs
      else
        let y := tsSift r (SMap.put 0 ccs x.pid (x.cc + 1))
        (y.1 + (if last != 0 && !x.jump && x.cc != last % 16 then 1 else 0), x :: y.2)

/-! ### Tables -/

/-- The first section on a PID that has come whole: it begins after the pointer field of the packet that starts it. -/
def sectionOf (ps : List Ts) (pid : Nat) : Option (List Byte) :=
  match (ps.filter fun x => x.pid == pid).dropWhile fun x => !x.start with
  | [] => none
  | x :: r =>
    let bs := x.data.drop (1 + natAt x.data 0 1) ++ (r.flatMap fun y => if y.start then y.data.drop 1 else y.data)
    let n := 3 + natBE bs 1 2 % 4096
    if n ≤ bs.length && 4 ≤ n then some (bs.take (n - 4)) else none

/-- The PID of a program's map: the entry of the PAT with its number. -/
def pmtPid (pat : List Byte) (program : Nat) : Option Nat :=
  ((List.range ((pat.length - 8) / 4)).find? fun i => natBE pat (8 + 4 * i) 2 == program).map fun i =>
    natBE pat (10 + 4 * i) 2 % 8192

/-- The streams that a PMT lists: type, PID and descriptors; fuel bounds their number. -/
def pmtStreams (bs : List Byte) (fuel : Nat) : List (Nat × Nat × List Byte) :=
  match fuel with
  | 0 => []
  | k + 1 =>
    if bs.length < 5 then []
    else
      let n := natBE bs 3 2 % 4096
      (natAt bs 0 1, natBE bs 1 2 % 8192, (bs.drop 5).take n) :: pmtStreams (bs.drop (5 + n)) k

/-- Whether a list of descriptors holds one of a tag, whose bytes begin with some; fuel bounds their number. -/
def hasDesc (bs : List Byte) (tag : Nat) (head : List Byte) (fuel : Nat) : Bool :=
  match fuel with
  | 0 => false
  | k + 1 =>
    bs.length ≥ 2 &&
      ((natAt bs 0 1 == tag && ((bs.drop 2).take (natAt bs 1 1)).take head.length == head) ||
        hasDesc (bs.drop (2 + natAt bs 1 1)) tag head k)

/-- Whether a stream is video of a supported type: 0x02, 0x1B, 0x24, or the registered AV1 type (R393). -/
def isVideo (x : Nat × Nat × List Byte) : Bool :=
  x.1 == 0x02 || x.1 == 0x1B || x.1 == 0x24 || (x.1 == 0x06 && hasDesc x.2.2 0x05 [0x41, 0x56, 0x30, 0x31] 64)

/-- Whether a stream is audio. -/
def isAudio (x : Nat × Nat × List Byte) : Bool :=
  [0x03, 0x04, 0x0F, 0x11, 0x81, 0x87].contains x.1 || (x.1 == 0x06 && (hasDesc x.2.2 0x6A [] 64 || hasDesc x.2.2 0x7A [] 64))

/-- The streams of a program; none where the PAT does not list it or its map has not come (R393). -/
def programOf (ps : List Ts) (program : Nat) : Option (List (Nat × Nat × List Byte)) :=
  match sectionOf ps 0 with
  | none => none
  | some pat =>
    match (pmtPid pat program).bind (sectionOf ps) with
    | none => none
    | some pmt => some (pmtStreams (pmt.drop (12 + natBE pmt 10 2 % 4096)) 256)

/-! ### PES packets -/

/-- The PES packets of some PIDs, in the order in which they begin: PID and bytes (R402). -/
def pesPackets (pids : List Nat) (ps : List Ts) : List (Nat × List Byte) :=
  match ps with
  | [] => []
  | x :: r =>
    if x.full && x.start && pids.contains x.pid then
      let rest := ((r.filter fun y => y.pid == x.pid && y.full).takeWhile fun y => !y.start).flatMap Ts.data
      (x.pid, x.data ++ rest) :: pesPackets pids r
    else pesPackets pids r

/-- What the demultiplexer finds in a segment: the errors counted, whether the program has a supported video stream, and the
PES packets of its audio streams, up to 8 of them (R393, R402). -/
structure Demux where
  errors : Nat
  video : Bool
  audio : List (Nat × List Byte)
deriving DecidableEq, Repr

/-- Demultiplex a segment for a program (R393). -/
def demux (pkt program : Nat) (bs : List Byte) : Demux :=
  let (errors, ps) := tsSift (tsPackets pkt bs) []
  match programOf ps program with
  | none => { errors := errors, video := false, audio := [] }
  | some xs =>
    { errors := errors, video := xs.any isVideo
      audio := pesPackets (((xs.filter isAudio).take 8).map fun x => x.2.1) ps }

end Sys2Proof.Machine
end

