-- ==== Sys2Proof/Machine/Media.lean ====
section
/-! DEFINITION. From decoded pictures to records: crop, scale, colour and cutting (R398 to R401). -/

namespace Sys2Proof.Machine

/-! ### The loader profile (R398) -/

/-- The fields of a loader profile that form records. -/
structure Profile where
  w : Nat
  h : Nat
  p : Nat
  t : Nat
  mode : Nat
  efmt : Nat
  colour : Nat
  range : Nat
  service : Nat
  capRecs : Nat
  scale : List (BitVec 32)
  offset : List (BitVec 32)
  hcoef : Nat
  vcoef : Nat
  audBase : Nat
  audSize : Nat
  stageBase : Nat
  stageSize : Nat

/-- Read a profile. -/
def profileOf (b : List Byte) : Profile :=
  let f3 := fun (o : Nat) => (List.range 3).map fun i => BitVec.ofNat 32 (natAt b (o + 4 * i) 4)
  { w := natAt b 0 2, h := natAt b 2 2, p := natAt b 4 1, t := natAt b 5 1, mode := natAt b 6 1, efmt := natAt b 7 1
    colour := natAt b 8 1, range := natAt b 9 1, service := natAt b 10 1, capRecs := natAt b 12 2, scale := f3 16
    offset := f3 28, hcoef := natAt b 40 8, vcoef := natAt b 48 8, audBase := natAt b 56 8, audSize := natAt b 64 8
    stageBase := natAt b 72 8, stageSize := natAt b 80 8 }

/-- Every field of a profile in its range and its reserved bits zero (R398, R407 code 1). -/
def profileOk (b : List Byte) : Bool :=
  let x := profileOf b
  let unit := if x.mode = 0 then 2 * x.p else x.p
  let side := fun (n : Nat) => 16 ≤ n && n ≤ 4096 && n % unit == 0
  (x.p == 8 || x.p == 14 || x.p == 16 || x.p == 32) && side x.w && side x.h && (x.t == 1 || x.t == 2 || x.t == 4) &&
    x.mode ≤ 1 && (if x.mode = 0 then x.efmt == 0 else x.efmt == 7 || x.efmt == 1 || x.efmt == 0) && x.colour ≤ 3 &&
    x.range ≤ 2 && (x.service ≤ 4 || (9 ≤ x.service && x.service ≤ 71)) && x.capRecs ≤ 256 &&
    x.audSize % 4096 == 0 && x.stageSize % 4096 == 0 && 2 ^ 26 ≤ x.stageSize && natAt b 11 1 == 0 && natAt b 14 2 == 0 &&
    natAt b 88 40 == 0

/-- Bytes of one sample of mode 0. -/
def sampleBytes (wide : Bool) : Nat := if wide then 2 else 1

/-- Payload bytes of a patch record (R400). -/
def Profile.payload (x : Profile) (wide : Bool) : Nat :=
  if x.mode = 1 then x.t * x.p * x.p * 3 * (((Fmt.ofCode x.efmt).map Fmt.bits).getD 8 / 8)
  else x.t * (x.p * x.p + 2 * (x.p / 2 * (x.p / 2))) * sampleBytes wide

/-- The record size Z (R400). -/
def Profile.recSize (x : Profile) : Nat := (64 + x.payload Config.wideSamples + 63) / 64 * 64

/-- Patch records of one tubelet. -/
def Profile.grid (x : Profile) : Nat := x.w / x.p * (x.h / x.p)

/-- Records of a sample of the given frames (R400). -/
def Profile.recsFor (x : Profile) (frames : Nat) : Nat := frames / x.t * x.grid + x.capRecs

/-! ### Crop and scale (R399) -/

/-- A sample of a cropped plane: edge samples repeat outside the crop, and a crop outside the plane finds a value the
spec does not give. -/
def croppedAt (pl : Plane) (x0 y0 w h : Nat) (i j : Int) : Nat :=
  let cx := x0 + (max 0 (min i ((w : Int) - 1))).toNat
  let cy := y0 + (max 0 (min j ((h : Int) - 1))).toNat
  if cx < pl.w && cy < pl.h then pl.x.getD (cy * pl.w + cx) 0 else Config.outside cx cy

/-- First tap sample and phase of output index i, from a samples to b (R399). -/
def tapOf (a b i : Nat) : Int × Nat :=
  let step := a * 65536 / b
  let pos : Int := ((2 * i + 1) * step / 2 : Nat) - (32768 : Int)
  (pos / 65536, (pos % 65536).toNat / 1024)

/-- A filter: 64 phases of 8 signed taps (R398). -/
def filterTap (coef : List Byte) (ph j : Nat) : Int := (BitVec.ofNat 16 (natAt coef (2 * (8 * ph + j)) 2)).toInt

/-- Clamp into 0 to 2^n − 1. -/
def clampBits (n : Nat) (v : Int) : Nat := (max 0 (min v (2 ^ n - 1))).toNat

/-- One plane scaled to w × h samples, the horizontal pass first; src gives a sample of the input of a × b samples. -/
def scalePlane (src : Int → Int → Nat) (a b w h bd : Nat) (hc vc : List Byte) : List Nat :=
  let hz := fun (i : Nat) (y : Int) =>
    let (k, ph) := tapOf a w i
    let sum : Int := ((List.range 8).map fun j => filterTap hc ph j * (src (k - 3 + j) y : Int)).sum
    clampBits (bd + 2) ((sum + 2048) / 4096)
  (List.range (w * h)).map fun o =>
    let (k, ph) := tapOf b h (o / w)
    let row := fun (j : Nat) => max 0 (min (k - 3 + (j : Int)) ((b : Int) - 1))
    let sum : Int := ((List.range 8).map fun j => filterTap vc ph j * (hz (o % w) (row j) : Int)).sum
    clampBits bd ((sum + 32768) / 65536)

/-- The planes of an output picture, cropped and scaled. -/
structure Scaled where
  y : List Nat
  cb : List Nat
  cr : List Nat

/-- Crop and scale one picture; crop gives x, y, w and h of the segment entry (R391, R399). -/
def Profile.scaled (x : Profile) (pic : Picture) (crop : List Nat) (bd : Nat) (hc vc : List Byte) : Scaled :=
  let even := fun (n : Nat) => n / 2 * 2
  let whole := crop.getD 2 0 == 0
  let x0 := if whole then 0 else even (crop.getD 0 0)
  let y0 := if whole then 0 else even (crop.getD 1 0)
  let w := even (if whole then pic.luma.w else crop.getD 2 0)
  let h := even (if whole then pic.luma.h else crop.getD 3 0)
  let luma := scalePlane (croppedAt pic.luma x0 y0 w h) w h x.w x.h bd hc vc
  let cw := if x.mode = 1 then x.w else x.w / 2
  let ch := if x.mode = 1 then x.h else x.h / 2
  let chroma := fun (pl : Plane) =>
    scalePlane (croppedAt pl (x0 / 2) (y0 / 2) (w / 2) (h / 2)) (w / 2) (h / 2) cw ch bd hc vc
  { y := luma, cb := chroma pic.cb, cr := chroma pic.cr }

/-! ### Colour (R399) -/

/-- The F32 value nearest a ratio. -/
def ratioF (a b : Nat) : BitVec 32 := (toF32 .rne ((Num.ofInt a).div (Num.ofInt b))).1

/-- Kr and Kb of a colour code: BT.601, BT.709, BT.2020 (R399). -/
def colourK (c : Nat) : BitVec 32 × BitVec 32 :=
  match c with
  | 1 => (ratioF 299 1000, ratioF 114 1000)
  | 2 => (ratioF 2126 10000, ratioF 722 10000)
  | _ => (ratioF 2627 10000, ratioF 593 10000)

/-- R, G and B of one pixel from its code values, in F32 with every operation rounded. -/
def pixelRgb (k : BitVec 32 × BitVec 32) (full : Bool) (bd y cb cr : Nat) : List (BitVec 32) :=
  let n := fun (i : Int) => exactF32 (Num.ofInt i)
  let u : Int := 2 ^ (bd - 8)
  let top : Int := 2 ^ bd - 1
  let luma := if full then divF (n y) (n top) else divF (n (y - 16 * u)) (n (219 * u))
  let chroma := fun (c : Nat) => if full then divF (n (c - 2 ^ (bd - 1))) (n top) else divF (n (c - 128 * u)) (n (224 * u))
  let one := n 1
  let r := addF luma (mulF (mulF (n 2) (subF one k.1)) (chroma cr))
  let b := addF luma (mulF (mulF (n 2) (subF one k.2)) (chroma cb))
  let g := divF (subF (subF luma (mulF k.1 r)) (mulF k.2 b)) (subF (subF one k.1) k.2)
  [r, g, b]

/-- The colour code and range that hold for a sample (R398). -/
def Profile.colourOf (x : Profile) (d : Decoded) (lines : Nat) : Nat × Bool :=
  (if x.colour != 0 then x.colour else d.colour.getD (if lines ≤ 576 then 1 else 2),
   if x.range != 0 then x.range == 2 else d.fullRange.getD false)

/-- One pixel of mode 1: three elements in efmt. -/
def Profile.pixel (x : Profile) (k : BitVec 32 × BitVec 32) (full : Bool) (bd : Nat) (sc : Scaled) (o : Nat) : List Byte :=
  let f := (Fmt.ofCode x.efmt).getD .int8
  let vs := pixelRgb k full bd (sc.y.getD o 0) (sc.cb.getD o 0) (sc.cr.getD o 0)
  ((List.range 3).zip vs).flatMap fun c =>
    leBytes (f.bits / 8) (roundTo f .rne (f32 (fmaF c.2 (x.scale.getD c.1 0) (x.offset.getD c.1 0)))).1

/-! ### Records (R400, R401) -/

/-- The payload bytes of one frame's patch at a grid place. -/
def Profile.patch (x : Profile) (k : BitVec 32 × BitVec 32) (full : Bool) (bd : Nat) (sc : Scaled) (row col : Nat) :
    List Byte :=
  let raster := fun (side w : Nat) => (List.range (side * side)).map fun o => (row * side + o / side) * w + col * side + o % side
  if x.mode = 1 then (raster x.p x.w).flatMap (x.pixel k full bd sc)
  else
    let n := if bd = 8 then 1 else 2
    let half := x.p / 2
    (raster x.p x.w).flatMap (fun o => leBytes n (sc.y.getD o 0)) ++
      (raster half (x.w / 2)).flatMap (fun o => leBytes n (sc.cb.getD o 0)) ++
      (raster half (x.w / 2)).flatMap (fun o => leBytes n (sc.cr.getD o 0))

/-- What a record's header says beside the profile's fields. -/
structure RecHead where
  id : Nat
  index : Nat
  kind : Nat
  flags : Nat
  frame : Nat
  row : Nat
  col : Nat
  pts : Nat

/-- A record: header, payload, zeros to the record size (R400). -/
def Profile.record (x : Profile) (r : RecHead) (payload : List Byte) : List Byte :=
  let head := leBytes 8 r.id ++ leBytes 4 r.index ++ leBytes 2 r.kind ++ leBytes 2 r.flags ++ leBytes 4 r.frame ++
    leBytes 2 r.row ++ leBytes 2 r.col ++ leBytes 8 r.pts ++ leBytes 2 (x.w / x.p) ++ leBytes 2 (x.h / x.p) ++
    [BitVec.ofNat 8 x.p, BitVec.ofNat 8 x.t, BitVec.ofNat 8 x.mode, BitVec.ofNat 8 x.efmt] ++ leBytes 4 payload.length
  padTo x.recSize (head ++ leBytes 4 (crc32c (head ++ payload)).toNat ++ List.replicate 16 0 ++ payload)

/-- Put the cues into caption payloads of at most cap bytes, in order; the answer tells whether one did not fit, which
drops it and every later one (R401). done: payloads filled; cur: the one being filled; left: how many may follow it. -/
def fillCues (cap : Nat) (cues : List (List Byte)) (done : List (List Byte)) (cur : List Byte) (left : Nat) :
    List (List Byte) × Bool :=
  match cues with
  | [] => (done ++ [cur], false)
  | c :: r =>
    if cur.length + c.length ≤ cap then fillCues cap r done (cur ++ c) left
    else if c.length ≤ cap && left > 0 then fillCues cap r (done ++ [cur]) c (left - 1)
    else (done ++ [cur], true)

/-- Whether a stream lies within the limits of the decoders (R394). -/
def streamWithin (v : VideoStream) : Bool :=
  let ten := v.bits == 8 || v.bits == 10
  v.yuv420 &&
    match v.codec with
    | .mpeg2 => v.profile == .main && v.level ≤ 4 && v.w ≤ 1920 && v.h ≤ 1088 && v.bits == 8
    | .avc => v.level ≤ 52 && v.w ≤ 4096 && v.h ≤ 2304 && ((v.profile == .high && v.bits == 8) || (v.profile == .high10 && ten))
    | .hevc => v.level ≤ 61 && v.w ≤ 8192 && v.h ≤ 4320 && ((v.profile == .main && v.bits == 8) || (v.profile == .main10 && ten))
    | .av1 => v.level ≤ 61 && v.w ≤ 8192 && v.h ≤ 4352 && v.profile == .main && ten

/-- Whether the source is one of 10 bits. -/
def isTenBit (d : Decoded) : Bool := d.stream.bits == 10

/-- Bit depth of the planes. -/
def depthOf (d : Decoded) : Nat := if isTenBit d then 10 else 8

/-- The flags every record of a sample carries: interlaced, 10-bit. -/
def sampleFlags (d : Decoded) : Nat := 2 * b2n d.stream.interlaced + 16 * b2n (isTenBit d)

/-! ### Concealment (R396, R397) -/

/-- Whether a block covers a luma sample. -/
def blockCovers (b : LostBlock) (x y : Nat) : Bool := b.x ≤ x && x < b.x + b.w && b.y ≤ y && y < b.y + b.h

/-- A plane whose lost blocks are replaced by the co-located samples of another, or by the mid value where there is none; step:
luma samples per sample of the plane (R397). -/
def concealPlane (p : Plane) (prev : Option Plane) (lost : List LostBlock) (step mid : Nat) : Plane :=
  { p with x := (List.range p.x.length).map fun i =>
      if lost.any fun b => blockCovers b (i % p.w * step) (i / p.w * step) then ((prev.map fun q => q.x.getD i mid)).getD mid
      else p.x.getD i 0 }

/-- The pictures output for a sample, each with its lost blocks replaced from the picture output before it (R397). -/
def concealed (mid : Nat) (prev : Option Picture) (ps : List Picture) : List Picture :=
  match ps with
  | [] => []
  | p :: r =>
    let q := if p.lost.isEmpty then p
      else { p with luma := concealPlane p.luma (prev.map Picture.luma) p.lost 1 mid
                    cb := concealPlane p.cb (prev.map Picture.cb) p.lost 2 mid, cr := concealPlane p.cr (prev.map Picture.cr) p.lost 2 mid }
    q :: concealed mid (some q) r

/-- The pictures output for a sample: skip pictures are left out, and those that follow are taken (R396, R397). -/
def outputOf (d : Decoded) (skip frames : Nat) : List Picture :=
  concealed (2 ^ (depthOf d - 1)) none ((d.pictures.drop skip).take frames)

/-- The patch record of tubelet τ at a grid place: unusable where the sample or a picture of it is missing. -/
def Profile.patchRec (x : Profile) (d : Decoded) (usable : Bool) (id : Nat) (pics : List (Picture × Scaled)) (index : Nat) : List Byte :=
  let cols := x.w / x.p
  let τ := index / max 1 x.grid
  let place := index % max 1 x.grid
  let mine := (pics.drop (τ * x.t)).take x.t
  let bad := !usable || mine.length < x.t
  let hidden := mine.any fun q => !q.1.lost.isEmpty
  let bd := depthOf d
  let lines := ((mine.head?).map fun q => q.1.luma.h).getD 0
  let (c, full) := x.colourOf d lines
  let payload := if bad then List.replicate (x.payload (isTenBit d)) 0
    else mine.flatMap fun q => x.patch (colourK c) full bd q.2 (place / cols) (place % cols)
  x.record { id := id, index := index, kind := 1, flags := sampleFlags d + b2n hidden + 4 * b2n bad, frame := τ * x.t
             row := place / cols, col := place % cols
             pts := if bad then 0 else ((mine.head?).map fun q => q.1.pts).getD 0 % 2 ^ 33 } payload

/-- The caption records of a sample; index of the first and the presentation times, which the spec does not give. -/
def Profile.capRecords (x : Profile) (d : Decoded) (usable : Bool) (id first : Nat) (pts : Nat → Nat) : List (List Byte) :=
  if x.capRecs = 0 then []
  else
    let cues := if x.service = 0 || !usable then [] else d.cues.map fun c => leBytes 4 c.1 ++ c.2 ++ [0]
    let (ps, cut) := fillCues (x.recSize - 64) cues [] [] (x.capRecs - 1)
    (List.range x.capRecs).map fun i =>
      let bad := !usable
      x.record { id := id, index := first + i, kind := 2
                 flags := sampleFlags d + 4 * b2n bad + 8 * b2n (cut && i + 1 == x.capRecs), frame := 0, row := 0, col := 0
                 pts := if bad then 0 else pts i % 2 ^ 33 } (ps.getD i [])

/-- The records of a sample: patches records, then captions (R396, R400). -/
def Profile.records (x : Profile) (d : Decoded) (usable : Bool) (id skip frames patches : Nat) (crop : List Nat)
    (hc vc : List Byte) (pts : Nat → Nat) : List (List Byte) :=
  let pics := (outputOf d skip frames).map fun q => (q, x.scaled q crop (depthOf d) hc vc)
  (List.range patches).map (x.patchRec d usable id pics) ++ x.capRecords d usable id patches pts

end Sys2Proof.Machine
end

