-- ==== Sys2Proof/Machine/Clicker.lean ====
section
/-! DEFINITION. The Clicker (R383 to R415): the loader and its RoCEv2 reads, the shuffle pool, flow control, and the
Ethernet ports. Segments are read one after another, and up to 256 are in decode (R395). -/

namespace Sys2Proof.Machine

/-! ### ING blocks and flow control (R227, R386) -/

/-- Staging blocks a class can still be granted. -/
def Welt.freeTo (w : Welt) (c : WeltClass) : Nat :=
  let u := w.use[classIdx c]
  let r := w.resOn[classIdx c]
  (r.res.toNat - (u.used - u.shared)) + min (r.cap.toNat - u.used) w.poolFree

/-- The Clicker's requests for ING blocks (R227, R228). -/
def clickerBlocks : BlockWait := { user := .clicker, owner := 0 }

/-- A port that is up sends XOFF on its lossless priorities, in one frame, while fewer than 512 ING blocks are free, and XON
once more than 1,024 are (R386). -/
def EthPort.flow (p : EthPort) (free : Nat) : EthPort :=
  if !p.up then p
  else if free < 512 && p.lossless &&& ~~~p.xoff != 0 then
    { p with xoff := p.xoff ||| p.lossless, pfcTx := satAdd p.pfcTx 1 }
  else if free > 1024 then { p with xoff := 0 }
  else p

/-- Every port acts on the number of ING blocks free to the Clicker (R386). It does so where the Clicker takes or returns
blocks, where a port's link or lossless priorities change, and at every tick (log 90). -/
def State.flowControl (s : State) : State :=
  let free := s.welt.freeTo .ing
  { s with ing := { s.ing with port := s.ing.port.map fun p => p.flow free } }

/-- Release ING blocks of the Clicker, of each of which bs tells whether it came from the shared pool (R230). -/
def State.dropIng (s : State) (bs : List Bool) : State :=
  let s := bs.foldl (fun (s : State) b => s.giveBlock .ing 0 b) s
  ({ s with ing := { s.ing with held := s.ing.held - bs.length } }).flowControl

/-- Blocks that hold n bytes. -/
def blocksOf (n : Nat) : Nat := (n + 4095) / 4096

/-! ### The segment table and connections (R387, R391, R392) -/

/-- The position of sample i of the batch being filled: its index in the segment table. -/
def State.entryIndex (s : State) (i : Nat) : Nat :=
  ((s.loaderPos s.ing.fillEpoch).toNat + i) % max 1 s.ing.gEntries.toNat

/-- A segment table entry (R391). -/
def State.segEntry (s : State) (j : Nat) : List Byte := s.bytes false (s.ing.gTbl.toNat * 64 + 64 * j) 64

/-- The sample being read: the first of its batch whose segment has not come whole. -/
def Clicker.current (c : Clicker) : Nat := c.readSegs

/-- The entry being read. -/
def State.curEntry (s : State) : List Byte := s.segEntry (s.entryIndex s.ing.current)

/-- Bytes of the segment being read. -/
def State.segLength (s : State) : Nat := natAt s.curEntry 12 4

/-- A connection's entry as memory holds it (R387). -/
def State.connMem (s : State) (c : Conn) : List Byte := s.bytes false (s.ing.gConn.toNat * 64 + 64 * c.val) 64

/-- Whether an entry is valid, with no reserved value (R387). -/
def connValid (b : List Byte) : Bool :=
  natAt b 51 1 == 1 && 3 ≤ natAt b 47 1 && natAt b 47 1 ≤ 5 && 8 ≤ natAt b 48 1 && natAt b 48 1 ≤ 20 && natAt b 43 1 < 4 &&
    natAt b 6 2 < 8192 && natAt b 49 1 < 64 && natAt b 50 1 < 8 && natAt b 52 12 == 0

/-- The data port of an entry. -/
def connPort (b : List Byte) : Port := Fin.ofNat 8 (natAt b 43 1 % 4)

/-- A connection that has not been used. -/
def RoceConn.unused : RoceConn := { psn := 0, reads := [], retries := 0, error := false, used := false, cnp := false }

/-- The connection's state. -/
def State.conn (s : State) (c : Conn) : RoceConn := SMap.get RoceConn.unused s.ing.conns c.val

/-- A connection's entry: as it was read at its first use after go or resume (R387). -/
def State.connEntry (s : State) (c : Conn) : List Byte := if (s.conn c).used then (s.conn c).entry else s.connMem c

/-- Change a connection. -/
def State.setConn (s : State) (c : Conn) (x : RoceConn) : State :=
  let cs := SMap.put RoceConn.unused s.ing.conns c.val x
  { s with ing := { s.ing with conns := cs } }

/-- A connection enters the error state: its blocks go back, and the loader stops at the sample and interrupts (R388, R423). -/
def State.stall (s : State) (c : Conn) : State :=
  let x := s.conn c
  let s := (s.setConn c { x with error := true, reads := [], blocks := [] }).dropIng x.blocks
  let s := { s with ing := { s.ing with state := .stalled, stallConn := BitVec.ofNat 12 c.val } }
  (s.irq 20).health 0x07 linkCause (connPort (s.connEntry c)).val

/-- The largest read (R387). -/
def maxRead : Nat := 1048576

/-- Change Ethernet port p. -/
def State.modEth (s : State) (p : Port) (f : EthPort → EthPort) : State :=
  { s with ing := { s.ing with port := vmod s.ing.port p f } }

/-- The transport header and what follows it of a packet to a connection's target: opcode, the target's queue pair and a
sequence number (PRESUMED from the RoCEv2 standard, log 91). -/
def bthTo (b : List Byte) (opcode : Nat) (psn : BitVec 24) : List Byte :=
  [BitVec.ofNat 8 opcode, 0, 0xFF, 0xFF, 0] ++ ((b.drop 40).take 3).reverse ++ [0] ++ (leBytes 3 psn.toNat).reverse

/-- Packets that n bytes take on a connection (R387). -/
def mtuPackets (b : List Byte) (n : Nat) : Nat :=
  let mtu := 2 ^ (natAt b 47 1 + 7)
  (n + mtu - 1) / mtu

/-- An RDMA READ request of n bytes from offset o of the segment being read: the transport header, then target address, key and
length (R387, R391; places PRESUMED from the RoCEv2 standard, log 91). -/
def State.readFrame (s : State) (b : List Byte) (psn : BitVec 24) (o n : Nat) : List Byte :=
  let e := s.curEntry
  bthTo b 0x0C psn ++ (leBytes 8 (natAt e 0 8 + o)).reverse ++ (leBytes 4 (natAt e 8 4)).reverse ++ (leBytes 4 n).reverse

/-- The segment being read has come whole: it goes to a decode engine, and the next is read; a loader that was told to stop
does so at this boundary (R395, R407). -/
def State.segmentRead (s : State) : State :=
  { s with ing := { s.ing with decode := s.ing.decode ++ [(s.ing.readSegs, s.ing.segData)], readSegs := s.ing.readSegs + 1
                               segBytes := 0, segData := [] } }

/-- An RDMA READ of the next bytes of the segment is sent on its connection, once its blocks are reserved, while fewer than 256
segments are in decode; a connection in error, or whose entry is not valid, stalls the loader (R387, R388, R395). -/
def execRdmaReadSend (c : Conn) (s : State) : Host.Outcome State Fault Refusal :=
  .next <|
    if !(s.fastOn && s.ing.state == .filling && s.ing.current < s.ing.gBatch.toNat && natAt s.curEntry 16 2 == c.val &&
        s.ing.decode.length < 256) then s
    else
      let b := s.connEntry c
      let x := s.conn c
      if x.error || (!x.used && !connValid b) then s.stall c
      else if s.segLength = 0 then s.segmentRead
      else
        let x := if x.used then x else { x with psn := BitVec.ofNat 24 (natAt b 44 3), used := true, entry := b }
        let p := s.ing.port[connPort b]
        let first := s.ing.segBytes + (x.reads.map Prod.snd).sum
        let n := min maxRead (s.segLength - first)
        if !p.up || bitOf p.paused (natAt b 50 1) || x.reads.length ≥ 16 || n = 0 then s
        else
          let (w, blocks) := s.welt.claimAll .ing clickerBlocks (blocksOf n)
          let s := { s with welt := w }
          match blocks with
          | none => s.flowControl
          | some bs =>
            let s := s.modEth (connPort b) fun y => { y with tx := s.readFrame b x.psn first n }
            let x := { x with reads := x.reads ++ [(first, n)], psn := x.psn + BitVec.ofNat 24 (mtuPackets b n)
                              blocks := x.blocks ++ bs }
            let s := s.setConn c x
            ({ s with ing := { s.ing with held := s.ing.held + blocksOf n } }).flowControl

/-- A congestion notification that is due is sent to the connection's target, at most one in each 50 µs, while the port takes
frames of its priority (R386, R387). -/
def State.sendCnp (s : State) (c : Conn) : State :=
  let x := s.conn c
  let b := s.connEntry c
  let p := s.ing.port[connPort b]
  let late := match x.cnpAt with
    | none => true
    | some t => decide ((s.now - t).toNat ≥ 50000)
  if x.cnp && late && p.up && !bitOf p.paused (natAt b 50 1) then
    (s.modEth (connPort b) fun y => { y with tx := bthTo b 0x81 0 }).setConn c { x with cnp := false, cnpAt := some s.now }
  else s

/-- Filling ends: the batch in progress is given up, READY batches are kept (R407). -/
def State.haltLoader (s : State) : State :=
  let s := s.dropIng (s.ing.conns.flatMap fun x => x.2.blocks)
  let s := { s with welt := s.welt.withdraw .ing fun q => q == clickerBlocks }
  { s with ing := { s.ing with state := .stopped, stopping := false, doneSegs := [], segBytes := 0, segData := []
                               readSegs := 0, decode := [], conns := []
                               slots := s.ing.slots.map fun b => if b == .filling then .free else b } }

/-- A segment is whole: a halt waiting for it takes effect, or it goes to decode (R395, R407). -/
def State.segmentTaken (s : State) : State := if s.ing.stopping then s.haltLoader else s.segmentRead

/-- Bytes of the segment being read are taken in (R395). -/
def State.segmentBytes (s : State) (data : List Byte) : State :=
  let s := { s with ing := { s.ing with segBytes := s.ing.segBytes + data.length, segData := s.ing.segData ++ data } }
  if s.segLength ≤ s.ing.segBytes then s.segmentTaken else s

/-- Bytes from offset o of the segment go to the staging area (R387, R395). -/
def State.stageSegment (s : State) (o : Nat) (data : List Byte) : State :=
  let prof := profileOf s.ing.gProf
  let cells := ((List.range data.length).zip data).map fun q => (prof.stageBase + (o + q.1) % max 1 prof.stageSize, q.2)
  (s.writeCells cells).1

/-- A read response lands in the blocks of the oldest read and is written to the staging area; CE brings a congestion
notification (R385, R387). -/
def execRoceResponseReceive (c : Conn) (data : List Byte) (ce : Bool) (s : State) : Host.Outcome State Fault Refusal :=
  .next <|
    let x := s.conn c
    match x.reads with
    | [] => s
    | (o, n) :: rest =>
      if !(s.fastOn && s.ing.state == .filling && !data.isEmpty && data.length ≤ n && s.ing.port[connPort (s.connEntry c)].up)
      then s
      else
        let k := data.length
        let s := s.stageSegment o data
        let reads := if k = n then rest else (o + k, n - k) :: rest
        let done := blocksOf n - blocksOf (n - k)
        let s := s.setConn c { x with reads := reads, retries := 0, cnp := x.cnp || ce, blocks := x.blocks.drop done }
        let s := (s.dropIng (x.blocks.take done)).sendCnp c
        s.segmentBytes data

/-- An acknowledgement timeout: the oldest read is sent again, for the bytes that have not come, and after 7 retries the connection is exhausted (R387, R388). -/
def execRoceRetryTimeout (c : Conn) (s : State) : Host.Outcome State Fault Refusal :=
  .next <|
    let x := s.conn c
    if !s.fastOn || x.error || x.reads.isEmpty then s
    else if x.retries ≥ 7 then s.stall c
    else
      let b := s.connEntry c
      let s := s.setConn c { x with retries := x.retries + 1 }
      let p := s.ing.port[connPort b]
      match x.reads with
      | (o, n) :: _ =>
        if p.up && !bitOf p.paused (natAt b 50 1) then
          let psn := x.psn - BitVec.ofNat 24 (x.reads.map fun r => mtuPackets b r.2).sum
          s.modEth (connPort b) fun y => { y with tx := s.readFrame b psn o n }
        else s
      | [] => s

/-! ### The pool (R403 to R407) -/

/-- The group axis of the shuffle communicator: its axis 0, which must be D (R403). -/
def State.shuffleAxis (s : State) : Option GroupAxis :=
  match s.commOn s.ing.gComm with
  | none => none
  | some (w, _) => (commAxes w).find? fun a => a.no == 0 && a.ax == 3

/-- Begin to fill the batch of number e where its slot is free and it is not too far ahead, else wait full (R405). -/
def State.tryFill (s : State) (e : BitVec 32) : State :=
  let nb := s.ing.gNbatch.toNat
  let i := e.toNat % max 1 nb
  if (e - s.epoch).toNat < nb && s.ing.slots.getD i .ready == .free then
    { s with ing := { s.ing with state := .filling, fillEpoch := e, doneSegs := [], segBytes := 0, segData := [], readSegs := 0, decode := []
                                 slots := s.ing.slots.set i .filling } }
  else { s with ing := { s.ing with state := .full, fillEpoch := e } }

/-- The slot of the batch of a committed step returns to FREE, and a full loader goes on (R364, R405). -/
def State.releaseBatch (s : State) (e : BitVec 32) : State :=
  let i := e.toNat % max 1 s.ing.gNbatch.toNat
  if s.ing.slots.getD i .free == .ready then
    { s with ing := { s.ing with slots := s.ing.slots.set i .free } }
  else s

/-- A full loader looks again for a batch to fill. -/
def State.refill (s : State) : State := if s.ing.state == .full then s.tryFill s.ing.fillEpoch else s

/-- The ranges of Insole memory a loader uses (R407 code 4). -/
def State.loaderRanges (s : State) (c : Clicker) (x : Profile) : List (Nat × Nat) :=
  [(c.gPool.toNat * 64, c.gNbatch.toNat * s.slotBytes), (x.stageBase, x.stageSize), (x.audBase, x.audSize),
   (c.gTbl.toNat * 64, 64 * c.gEntries.toNat), (x.hcoef, 1024), (x.vcoef, 1024)]

/-- The first failing check of a configuration taken at go (R407). -/
def State.goErr (s : State) : Nat :=
  let c := s.ing
  let x := profileOf c.gProf
  if !profileOk c.gProf then 1
  else if !(match s.shuffleAxis with
    | some a => c.gBatch.toNat % a.g == 0
    | none => false) then 2
  else if c.gZ > 65535 then 3
  else if !((s.loaderRanges c x).all fun r => s.inInsole r.1 r.2) then 4
  else if c.gEntries = 0 || c.gBatch = 0 || c.gSem = 0 || c.gNbatch < 2 || 8 < c.gNbatch then 5
  else 0

/-- go: the registers, the profile and the position word are taken, the records per sample from the first entry, and
the configuration is checked; filling begins at the first batch of the pool that is not READY (R392, R407). -/
def execIngGo (s : State) : Host.Outcome State Fault Refusal :=
  .next <|
    let c := s.ing
    if !s.fastOn then s
    else if c.state != .idle && c.state != .stopped then { s with ing := { c with lastStatus := .busy } }
    else
      let raw := s.bytes false (c.prof.toNat * 64) 128
      let start := natAt (s.bytes false (c.pos.toNat * 64) 8) 0 8
      let frames := natAt (s.bytes false (c.tbl.toNat * 64 + 64 * (start % max 1 c.entries.toNat)) 64) 22 2
      let x := profileOf raw
      let g : Clicker := { c with
        lastStatus := .ok, gBatch := c.batch, gComm := c.comm, gNbatch := c.nbatch, gSem := c.sem, gEntries := c.entries
        gSeed := c.seed, gTbl := c.tbl, gPool := c.pool, gConn := c.conn, gPos := c.pos, gProf := raw
        gRps := x.recsFor frames, gZ := x.recSize }
      let err := ({ s with ing := g }).goErr
      if err != 0 then { s with ing := { c with lastStatus := .ok, cfgErr := BitVec.ofNat 4 err } }
      else
        let nb := c.nbatch.toNat
        let keep := c.state == .stopped && c.gNbatch == c.nbatch
        let slots := (List.range nb).map fun i =>
          if keep && c.slots.getD i .free == .ready then BatchState.ready else .free
        let e := s.epoch
        let first := (((List.range nb).find? fun i => slots.getD ((e.toNat + i) % nb) .free == .free)).getD nb
        let g := { g with cfgErr := 0, start := BitVec.ofNat 64 start, startEpoch := e, audio := 0, slots := slots, conns := []
                          doneSegs := [], segBytes := 0, segData := [], readSegs := 0, decode := [], stopping := false
                          posNo := 0 }
        ({ s with ing := g }).tryFill (e + BitVec.ofNat 32 first)

/-- stop: filling ends at the next sample boundary, at once where no sample is being read (R407). -/
def execIngStop (s : State) : Host.Outcome State Fault Refusal :=
  .next <|
    match s.ing.state with
    | .filling =>
      if s.ing.segBytes = 0 && s.ing.held = 0 then s.haltLoader else { s with ing := { s.ing with stopping := true } }
    | .full => s.haltLoader
    | .stalled => s.haltLoader
    | _ => s

/-- resume: a stall ends, entries are read again, and the whole segment is read from its first byte (R388). -/
def execIngResume (s : State) : Host.Outcome State Fault Refusal :=
  .next <|
    if s.ing.state == .stalled then
      let s := s.dropIng (s.ing.conns.flatMap fun x => x.2.blocks)
      { s with ing := { s.ing with state := .filling, conns := [], segBytes := 0, segData := [] } }
    else s

/-- clr_cnt: ts_err and every port counter are cleared (R409). -/
def execIngClrCnt (s : State) : Host.Outcome State Fault Refusal :=
  .next { s with ing := { s.ing with tsErr := 0
                                     port := s.ing.port.map fun p => { p with fecCorr := 0, rxDrop := 0, pfcTx := 0 } } }

/-! ### Samples (R400 to R406) -/

/-- The sort key of sample i of the batch being filled (R404). -/
def State.sampleKey (s : State) (q i : Nat) : Nat :=
  let a := mix64 (s.ing.gSeed ^^^ (s.ing.fillEpoch.zeroExtend 64 <<< 32) ^^^ BitVec.ofNat 64 q)
  (mix64 (a ^^^ BitVec.ofNat 64 (s.entryIndex i))).toNat

/-- The rank of sample i among those of its batch (R404). -/
def State.sampleRank (s : State) (q i : Nat) : Nat :=
  let k := s.sampleKey q i
  ((List.range s.ing.gBatch.toNat).filter fun j =>
    let h := s.sampleKey q j
    h < k || (h == k && j < i)).length

/-- Address of the first record of sample i (R403, R404). -/
def State.sampleAddr (s : State) (i : Nat) : Nat :=
  let (g, q) := match s.shuffleAxis with
    | some a => (a.g, s.posOn a)
    | none => (1, 0)
  let r := s.sampleRank q i
  let place := (r % g * (s.ing.gBatch.toNat / g) + r / g) * s.ing.gRps
  s.slotAddr s.ing.fillEpoch.toNat + place * s.ing.gZ

/-- The entry of an audio packet in the audio ring (R402). -/
def audioEntry (id : Nat) (a : Nat × List Byte) : List Byte :=
  let body := leBytes 8 id ++ leBytes 2 a.1 ++ leBytes 2 0 ++ leBytes 4 a.2.length ++ a.2
  padTo ((body.length + 15) / 16 * 16) body

/-- Write bytes into the audio ring (R402). -/
def State.writeAudio (s : State) (x : Profile) (bs : List Byte) : State :=
  let o := s.ing.audio.toNat
  let cells := (List.range bs.length).zip bs |>.map fun q => (x.audBase + (o + q.1) % max 1 x.audSize, q.2)
  let s := if x.audSize = 0 then s else (s.writeCells cells).1
  { s with ing := { s.ing with audio := s.ing.audio + BitVec.ofNat 64 bs.length } }

/-- A decode engine has finished a segment whose bytes have all come: the demultiplexer's errors are counted, its records are
written at their places of the pool, and its audio packets into the audio ring; where the program has no supported video
within the decoders' limits, every record is unusable (R393 to R404). -/
def execSegmentDecodeComplete (d : Decoded) (s : State) : Host.Outcome State Fault Refusal :=
  .next <|
    let c := s.ing
    match c.decode.find? fun q => q.1 == d.slot with
    | none => s
    | some (_, bytes) =>
    if !(s.fastOn && (c.state == .filling || c.state == .stalled)) then s
    else
      let x := profileOf c.gProf
      let b := s.segEntry (s.entryIndex d.slot)
      let id := natAt b 24 8
      let free := s.freeCtr
      let m := demux (natAt b 40 1) (natAt b 18 2) bytes
      let usable := m.video && streamWithin d.stream
      let recs := x.records d usable id (natAt b 20 2) (natAt b 22 2) (c.gRps - x.capRecs)
        ((List.range 4).map fun i => natAt b (32 + 2 * i) 2)
        (s.bytes false x.hcoef 1024) (s.bytes false x.vcoef 1024) fun i => (Config.free (free + i)).toNat
      let s := { s with freeCtr := free + x.capRecs }
      let out := recs.flatten
      s.throughWelt .ing clickerBlocks (blocksOf x.recSize) fun s =>
      let (s, _) := s.writeMem (s.sampleAddr d.slot) out
      let s := m.audio.foldl (fun s a => s.writeAudio x (audioEntry id a)) s
      { s with ing := { s.ing with doneSegs := NatSet.add c.doneSegs d.slot, decode := c.decode.filter fun q => q.1 != d.slot
                                   tsErr := satAdd s.ing.tsErr m.errors } }

/-- Every record of the batch is written: the counts follow, it becomes READY, the semaphore is signalled, and filling
goes on with the next batch (R403, R405, R406). -/
def execBatchReady (s : State) : Host.Outcome State Fault Refusal :=
  .next <|
    let c := s.ing
    if !(s.fastOn && c.state == .filling && c.doneSegs.length ≥ c.gBatch.toNat) then s
    else
      let g := ((s.shuffleAxis.map GroupAxis.g).getD 1)
      let counts := (List.range g).flatMap fun _ => leBytes 4 (c.gBatch.toNat / g * c.gRps)
      let (s, _) := s.writeMem (s.slotAddr c.fillEpoch.toNat + s.batchRecords * c.gZ) (padTo 256 counts)
      let i := c.fillEpoch.toNat % max 1 c.gNbatch.toNat
      let s := { s with ing := { s.ing with slots := s.ing.slots.set i .ready, doneSegs := [] } }
      let s := s.clickerSignal
      if s.ing.stopping then s.haltLoader else s.tryFill (c.fillEpoch + 1)

/-- The number of the step attempt whose previous decision has completed on every stack. -/
def State.attemptNo (s : State) : Nat := (List.finRange 24).foldl (fun m k => min m (s.stepOf k)) s.step.given

/-- After the previous decision has completed on every stack, the Clicker writes the position of the next step's batch, once
in each attempt; the decision on the attempt is held until then, so the write belongs to it (R255, R392). -/
def execLoaderPositionWrite (s : State) : Host.Outcome State Fault Refusal :=
  .next <|
    let c := s.ing
    if !s.fastOn || c.state == .idle || s.step.committing.isSome && s.attemptNo == s.step.given || s.attemptNo < c.posNo then s
    else
      let p := s.loaderPos s.epoch + BitVec.ofNat 64 c.gBatch.toNat
      let a := c.gPos.toNat * 64
      let (s, _) := s.writeNow ((leBytes 8 p.toNat).zipIdx.map fun x => (a + x.2, x.1))
      { s with ing := { s.ing with posNo := s.attemptNo + 1 } }

/-! ### Ethernet ports (R383 to R390, R415) -/

/-- Where the Ethertype of a frame lies: past a VLAN tag (R384). -/
def typeOff (f : List Byte) : Nat := if natBE f 12 2 == 0x8100 then 16 else 12

/-- The priority a frame is sent with: that of its VLAN tag, else 0. -/
def framePrio (f : List Byte) : Nat := if natBE f 12 2 == 0x8100 then natAt f 14 1 / 32 else 0

/-- Whether a frame, without its FCS, has a size that the ports carry: 64 to 9,216 B with the FCS (R384). -/
def frameSize (f : List Byte) : Bool := 60 ≤ f.length && f.length ≤ 9212

/-- Where the transport header of a RoCEv2 frame lies: UDP port 4791 on IPv4 without options or fragments, or on IPv6 without
extension headers (R384; header places PRESUMED from the IP and RoCEv2 standards, log 91). -/
def roceOff (f : List Byte) : Option Nat :=
  let o := typeOff f + 2
  if natBE f (o - 2) 2 == 0x0800 && natAt f o 1 == 0x45 && natBE f (o + 6) 2 % 16384 == 0 && natAt f (o + 9) 1 == 17 &&
      natBE f (o + 22) 2 == 4791 then some (o + 28)
  else if natBE f (o - 2) 2 == 0x86DD && natAt f (o + 6) 1 == 17 && natBE f (o + 42) 2 == 4791 then some (o + 48)
  else none

/-- What a frame on a data port is (R385). -/
inductive FrameKind where
  | response | complex | request | other
deriving DecidableEq, Repr

/-- Sort a frame of a data port (R385): a RoCEv2 read response or acknowledgement; ARP, IPv6 neighbour discovery, LLDP, or the
control complex's own address; an RDMA request. Codes are PRESUMED from the standards (log 91). -/
def frameKind (f : List Byte) : FrameKind :=
  let o := typeOff f
  let t := natBE f o 2
  if !frameSize f then .other
  else
    match roceOff f with
    | some b =>
      let code := natAt f b 1
      if 13 ≤ code && code ≤ 18 then .response else if code ≤ 12 || (19 ≤ code && code ≤ 23) then .request else .other
    | none =>
      if t == 0x0806 || t == 0x88CC then .complex
      else if t == 0x86DD && natAt f (o + 8) 1 == 58 && 133 ≤ natAt f (o + 42) 1 && natAt f (o + 42) 1 ≤ 137 then .complex
      else if t != 0x8808 && natBE f 0 6 == Config.ownMac.toNat then .complex
      else .other

/-- The connection that a RoCEv2 frame names by its local queue pair, 0x01_0000 + j (R387). -/
def connOf (f : List Byte) : Option Conn :=
  (roceOff f).bind fun b =>
    let q := natBE f (b + 5) 3
    if 0x10000 ≤ q && q < 0x11000 then some (Fin.ofNat 4096 (q - 0x10000)) else none

/-- Whether a data port takes frames. -/
def State.dataUp (s : State) (p : Port) : Bool := s.fastOn && p.val < 4 && s.ing.port[p].up

/-- An RDMA request addressed to the part is answered with a NAK of kind remote invalid request, sent with the request's
priority once the port is not paused for it: the transport header to the connection's target with the request's sequence
number, syndrome 0x61, and a message number that is free, as is the target where the request names no connection (R385, R386; PRESUMED from the RoCEv2 standard, log 91). -/
def execRdmaRequestReceive (x : PortFrame) (s : State) : Host.Outcome State Fault Refusal :=
  .next <|
    if !(s.dataUp x.p && frameKind x.frame == .request) || bitOf s.ing.port[x.p].paused (framePrio x.frame) then s
    else
      let (i, s) := s.freshN 2
      let b := match connOf x.frame with
        | some c => s.connEntry c
        | none => List.replicate 40 0 ++ leBytes 8 (Config.free (i + 1)).toNat
      let psn := BitVec.ofNat 24 (natBE x.frame ((roceOff x.frame).getD 0 + 9) 3)
      s.modEth x.p fun y => { y with tx := bthTo b 0x11 psn ++ [0x61] ++ leBytes 3 ((Config.free i).toNat % 2 ^ 24) }

/-- A frame that nothing takes is discarded and counted, on a data port: among them a response on no connection in use (R385). -/
def execEthernetFrameDiscard (x : PortFrame) (s : State) : Host.Outcome State Fault Refusal :=
  .next <|
    let used := match connOf x.frame with
      | some c => (s.conn c).used
      | none => false
    let k := frameKind x.frame
    if s.dataUp x.p && (k == .other || (k == .response && !used)) then
      s.modEth x.p fun y => { y with rxDrop := satAdd y.rxDrop 1 }
    else s

/-- A PFC frame pauses the priorities it names, and releases them where it carries no time (R386). -/
def execPfcFrameReceive (p : Port) (prios : BitVec 8) (time : Nat) (s : State) : Host.Outcome State Fault Refusal :=
  .next <|
    if s.fastOn && s.ing.port[p].up then
      s.modEth p fun x => { x with paused := if time = 0 then x.paused &&& ~~~prios else x.paused ||| prios }
    else s

/-- The pause time runs out (R386). -/
def execPfcPauseExpiry (p : Port) (prios : BitVec 8) (s : State) : Host.Outcome State Fault Refusal :=
  .next (s.modEth p fun x => { x with paused := x.paused &&& ~~~prios })

/-- A hexadecimal digit as ASCII. -/
def hexDigit (d : Nat) : Byte := BitVec.ofNat 8 (if d < 10 then 48 + d else 55 + d)

/-- A type-length-value of an LLDPDU (IEEE 802.1AB). -/
def lldpTlv (t : Nat) (v : List Byte) : List Byte :=
  [BitVec.ofNat 8 (t * 2 + v.length / 256 % 2), BitVec.ofNat 8 v.length] ++ v

/-- The LLDPDU of port p: chassis, port, time to live, system name (R390). i: the number of the free value that the name is. -/
def State.lldp (s : State) (p : Port) (i : Nat) : List Byte :=
  let hash := (List.range 8).map fun i => hexDigit (s.serialHash.toNat / 16 ^ (7 - i) % 16)
  lldpTlv 1 (7 :: hash) ++ lldpTlv 2 [7, 0x65, 0x74, 0x68, BitVec.ofNat 8 (48 + p.val)] ++ lldpTlv 3 [0, 120] ++
    lldpTlv 5 ((Config.sysName i).take 255) ++ lldpTlv 0 []

/-- A control port that is up sends an LLDPDU, which is untagged and so of priority 0, once that is not paused (R386,
R390). -/
def execLldpSend (p : Port) (s : State) : Host.Outcome State Fault Refusal :=
  .next <|
    if s.fastOn && 4 ≤ p.val && s.ing.port[p].up && !bitOf s.ing.port[p].paused 0 then
      let (i, s) := s.fresh
      s.modEth p fun x => { x with tx := s.lldp p i }
    else s

/-- An Ethernet link goes down: the loss is counted, and pauses end (R415). -/
def State.ethDown (s : State) (p : Port) : State :=
  if s.ing.port[p].up then
    (s.modEth p fun x => { x with up := false, paused := 0, xoff := 0 }).health 0x07 linkCause p.val
  else s

/-- An Ethernet link goes up, unless the port is disabled or in reset, or down; a control port sends an LLDPDU on link-up
(R390, R415). -/
def execEthernetLinkChange (p : Port) (up : Bool) (s : State) : Host.Outcome State Fault Refusal :=
  .next <|
    let x := s.ing.port[p]
    if !up then s.ethDown p
    else if !s.fastOn || x.up || x.disable || x.phase != .service then s
    else
      let (i, s) := s.fresh
      (s.modEth p fun x => { x with up := true, tx := if 4 ≤ p.val then s.lldp p i else x.tx }).flowControl

/-- A write of ING_PORTn.disable holds the port down or releases it (R415). -/
def execIngPortDisable (p : Port) (on : Bool) (s : State) : Host.Outcome State Fault Refusal :=
  .next <|
    let s := s.modEth p fun x => { x with disable := on }
    if on then s.ethDown p else s

end Sys2Proof.Machine
end

