-- ==== Sys2Proof/Machine/Firmware.lean ====
section
/-! DEFINITION. Fuses, images, the boot record, the boot chain, measurement and the handoff to the control complex
(R422, R433 to R444, R448). -/

namespace Sys2Proof.Machine

/-! ### Fuses (R434 to R437) -/

/-- Bytes of a SHA-512 digest, the first least significant. -/
def digestBytes (d : BitVec 512) : List Byte := leBytes 64 d.toNat

/-- The SHA-512 digest of a byte string, as bytes. -/
def shaBytes (bs : List Byte) : List Byte := digestBytes (Config.sha512 bs)

/-- Ones among n bytes of a memory. -/
def Memory.ones (m : Memory) (a n : Nat) : Nat :=
  ((List.range (8 * n)).filter fun i => (m.read (a + i / 8)).toNat / 2 ^ (i % 8) % 2 == 1).length

/-- Whether n bytes from an offset are all zero. -/
def Memory.zeros (m : Memory) (a n : Nat) : Bool := m.all fun c => c.1 < a || a + n ≤ c.1 || c.2 == 0

/-- Whether a byte string ends with the CRC-32C of the n bytes before it (R436). -/
def crcGood (bs : List Byte) (n : Nat) : Bool := natAt bs n 4 == (crc32c (bs.take n)).toNat

/-- Configuration generation block i, for i from 1 to 4 (R434, R436). -/
def Cobbler.genBlock (c : Cobbler) (i : Nat) : List Byte := c.fuses.readN (0x200 + 256 * (i - 1)) 256

/-- Whether block i is valid (R436). -/
def Cobbler.genValid (c : Cobbler) (i : Nat) : Bool :=
  let b := c.genBlock i
  natAt b 0 1 == 0xA5 && natAt b 1 1 == i && crcGood b 252

/-- The generation in use: the valid block with the highest index, 0 where none is (R436). -/
def Cobbler.genInUse (c : Cobbler) : Nat := (([4, 3, 2, 1] : List Nat).find? c.genValid).getD 0

/-- Block of the generation in force, none where the part runs unfused (R436). -/
def Cobbler.forceBlock (c : Cobbler) : Option (List Byte) := if c.genForce = 0 then none else some (c.genBlock c.genForce)

/-- Host region size that the generation in force sets (R428, R436). -/
def Cobbler.hostGib (c : Cobbler) : BitVec 5 :=
  match c.forceBlock with
  | some b => BitVec.ofNat 5 (natAt b 2 1)
  | none => 0x10

/-- Package power limit in W (R436). -/
def Cobbler.powerLimit (c : Cobbler) : Nat :=
  match c.forceBlock with
  | some b => natAt b 4 2
  | none => 2400

/-- The static management address that the generation in force sets, with its prefix length; none where DHCPv4 gives it
(R436, R453). -/
def Cobbler.staticAddr (c : Cobbler) : Option (Nat × Nat) :=
  match c.forceBlock with
  | some b => if natAt b 72 4 = 0 then none else some (natAt b 72 4, natAt b 76 1)
  | none => none

/-- The operator's trust anchor; none where no anchor is set (R436). -/
def Cobbler.anchor (c : Cobbler) : Option (List Byte) :=
  match c.forceBlock with
  | some b => if leNat ((b.drop 8).take 64) = 0 then none else some ((b.drop 8).take 64)
  | none => none

/-- The compatibility code (R435). -/
def Cobbler.compat (c : Cobbler) : Nat := c.fuses.nat 16 2

/-- The value of the anti-rollback counter (R434). -/
def Cobbler.arb (c : Cobbler) : Nat := c.fuses.ones 0x148 8

/-- Whether key slot k is revoked (R434). -/
def Cobbler.revoked (c : Cobbler) (k : Nat) : Bool := (c.fuses.read 0x140).toNat / 2 ^ k % 2 == 1

/-! ### Images (R439, R440) -/

/-- A component entry: type, offset within the image, length, load address and digest (R439). -/
structure Comp where
  kind : Nat
  off : Nat
  len : Nat
  load : Nat
  digest : List Byte
deriving DecidableEq, Repr

/-- Component entry i of an image. -/
def Memory.comp (m : Memory) (i : Nat) : Comp :=
  let a := 640 + 96 * i
  { kind := m.nat a 2, off := m.nat (a + 8) 8, len := m.nat (a + 16) 8, load := m.nat (a + 24) 8
    digest := m.readN (a + 32) 64 }

/-- The components of an image. -/
def Memory.comps (m : Memory) : List Comp := (List.range (m.nat 8 2)).map m.comp

/-- Bytes of an image slot (R438). -/
def slotSize : Nat := 120 * 2 ^ 20

/-- Check 1: format, component count, length, reserved fields and component layout (R439, R440). -/
def Memory.layoutOk (m : Memory) : Bool :=
  let n := m.nat 8 2
  let len := m.nat 16 8
  let kinds := m.comps.map Comp.kind
  m.nat 0 2 == 1 && 1 ≤ n && n ≤ 16 && len ≤ slotSize && m.nat 5 1 ≤ 3 && m.zeros 10 6 && m.zeros 24 40 &&
    m.zeros 580 60 && m.zeros 2688 1408 && m.zeros (640 + 96 * n) (96 * (16 - n)) &&
    ((List.range n).all fun i => m.zeros (640 + 96 * i + 2) 6) &&
    (m.comps.all fun c => c.off % 4096 == 0 && c.off + c.len ≤ len && 1 ≤ c.kind && c.kind ≤ 6) &&
    kinds.contains 1 && kinds.eraseDups.length == kinds.length

/-- Whether a component's bytes have its digest: check 6 (R440). -/
def Memory.compGood (m : Memory) (c : Comp) : Bool := shaBytes (m.readN c.off c.len) == c.digest

/-- The first check of R440 that an image fails, 0 where it passes; boot verifies the type 1 component alone at check 6
(R441). -/
def Cobbler.verify (c : Cobbler) (m : Memory) (boot : Bool) : Nat :=
  let k := m.nat 5 1
  let key := m.readN 64 516
  if !m.layoutOk then 1
  else if shaBytes key != c.fuses.readN (0x40 + 64 * k) 64 then 2
  else if c.revoked k then 3
  else if m.nat 4 1 < c.arb then 4
  else if !Config.signatureGood key (Config.sha512 (m.readN 0 2176)) (m.readN 2176 512) then 5
  else if !m.comps.all fun x => (boot && x.kind != 1) || m.compGood x then 6
  else if m.nat 6 2 != 0 && m.nat 6 2 != c.compat then 7
  else 0

/-! ### Boot record (R438) -/

/-- The copy of the boot record in use: the one with the higher sequence number among those with a good CRC. -/
def Cobbler.bootCopy (c : Cobbler) : Fin 2 :=
  let a := c.boot[0]
  let b := c.boot[1]
  if b.good && (!a.good || a.seq < b.seq) then 1 else 0

/-- The boot record in force. -/
def Cobbler.record (c : Cobbler) : BootRec := c.boot[c.bootCopy]

/-- Change the boot record: the other copy is written with the next sequence number. -/
def Cobbler.setRecord (c : Cobbler) (f : BootRec → BootRec) : Cobbler :=
  let r := f c.record
  { c with boot := vput c.boot (1 - c.bootCopy) { r with seq := c.record.seq + 1, good := true } }

/-- Image slot A or B. -/
def Cobbler.slot (c : Cobbler) (b : Bool) : Memory := if b then c.slotB else c.slotA

/-- The image that runs. -/
def Cobbler.image (c : Cobbler) : Memory := c.slot c.runningB

/-! ### Measurement and the boot chain (R441 to R443) -/

/-- Extend measurement register i by a digest (R443). -/
def Cobbler.extend (c : Cobbler) (i : Fin 8) (d : List Byte) : Cobbler :=
  { c with meas := vput c.meas i (Config.sha512 (digestBytes c.meas[i] ++ d)) }

/-- Extend M3 with a configuration generation block, where one is in use (R436, R441). -/
def Cobbler.extendGen (c : Cobbler) (g : Nat) : Cobbler := if g = 0 then c else c.extend 3 (shaBytes (c.genBlock g))

/-- The slot the boot ROM selects and whether it is the pending one; a try is used up (R441). -/
def Cobbler.select (c : Cobbler) : Cobbler × Bool × Bool :=
  let r := c.record
  match r.pending with
  | none => (c, r.activeB, false)
  | some b => if r.tries = 0 then (c, r.activeB, false) else (c.setRecord fun r => { r with tries := r.tries - 1 }, b, true)

/-- The number the next event record takes at a start: past every record that the mirror or the ring holds (R449). -/
def Cobbler.seqAtStart (c : Cobbler) : Nat :=
  (c.mirror ++ c.ring).foldl (fun k r => max k (r.seq + 1)) 0

/-- The firmware of a verified slot starts: M0 is extended with the header and the firmware, M3 with the identity block
and the generation in use (R441). -/
def Cobbler.begin (c : Cobbler) (b pending : Bool) : Cobbler :=
  let m := c.slot b
  let c := c.extend 0 (shaBytes (m.readN 0 4096))
  let c := ((m.comps.filter fun x => x.kind == 1).foldl (fun (c : Cobbler) x => c.extend 0 x.digest) c)
  let c := (c.extend 3 (shaBytes (c.fuses.readN 0 64))).extendGen c.genInUse
  { c with runningB := b, runningPending := pending, recovery := false }

/-- Events of the boot ROM: the slot in the unit field, the failing check in the data (R440, R441, R446). -/
def State.bootEvent (s : State) (low slot detail : Nat) : State :=
  s.event 0x0A low 2 .aborted 0 slot (BitVec.ofNat 64 detail)

/-- A configuration block that is programmed but not valid is skipped, and an event is recorded (R436). -/
def State.skippedBlocks (s : State) : State :=
  ([1, 2, 3, 4] : List Nat).foldl (fun s i =>
    if !s.cbl.genValid i && !s.cbl.fuses.zeros (0x200 + 256 * (i - 1)) 256 then s.bootEvent 0x03 i 0 else s) s

/-- Cobbler starts: the boot ROM selects, verifies and starts the firmware, tries the other slot where a check fails, and
enters recovery where both fail (R441, R442). Programmed blocks that are not valid are recorded (R436). -/
def State.startCobbler (s : State) : State :=
  let c := { s.cbl with phase := .service, mbState := .idle, nextSeq := s.cbl.seqAtStart, update := none }
  let spent := match c.record.pending with
    | some _ => c.record.tries == 0
    | none => false
  let (c, b, pend) := c.select
  let s := { s with cbl := c }
  let s := if spent then s.bootEvent 0x02 (b2n (!b)) 0 else s
  let s := s.skippedBlocks
  let d := c.verify (c.slot b) true
  if d = 0 then { s with cbl := s.cbl.begin b pend }
  else
    let s := s.bootEvent 0x01 (b2n b) d
    let d2 := c.verify (c.slot !b) true
    if d2 = 0 then { s with cbl := s.cbl.begin (!b) (c.record.pending == some (!b)) }
    else
      let s := s.bootEvent 0x01 (b2n (!b)) d2
      { s with cbl := { s.cbl with recovery := true, runningPending := false } }

/-- Cobbler's cores and mailbox reset: the unit epoch advances, a pending request and pieces are dropped, sessions close,
and the boot chain is due (R457, R470, R485). -/
def State.resetCobbler (s : State) : State :=
  { s with cbl := { s.cbl with
      phase := .returning, uepoch := s.cbl.uepoch + 1, mbState := .reset, pieces := none, rspStatus := .ok
      lastStatus := .ok, mbReq := Vector.replicate 32 0, mbRsp := Vector.replicate 32 0
      sessions := Vector.replicate 4 Session.reset, replies := Vector.replicate 4 none } }

/-- Whether the firmware of an image runs and takes commands. -/
def State.firmwareUp (s : State) : Bool := s.cblUp && !s.cbl.recovery

/-! ### Loading the units -/

/-- The component of a type in the running image, where it has one. -/
def Cobbler.compOf (c : Cobbler) (kind : Nat) : Option Comp := c.image.comps.find? fun x => x.kind == kind

/-- Load the component of a type: where it passes its check, M1 or M2 is extended and its bytes are written into its unit over the
maintenance path, the control complex image into the host region by the handoff; otherwise its unit stays in reset and an event
is recorded (R16, R422, R439, R441). -/
def State.loadComp (s : State) (kind : Nat) (m : Fin 8) : State :=
  match s.cbl.compOf kind with
  | none => { s.bootEvent 0x04 partUnit kind with clk := { s.clk with unitsHeld := s.clk.unitsHeld ++ [kind] } }
  | some x =>
    if s.cbl.image.compGood x then
      let code : Memory := (s.cbl.image.readN x.off x.len).zipIdx.foldl (fun (c : Memory) b => c.write (x.load + b.2) b.1) []
      { s with cbl := s.cbl.extend m x.digest
               clk := if kind = 5 then s.clk else { s.clk with unitCode := SMap.put [] s.clk.unitCode kind code } }
    else { s.bootEvent 0x04 partUnit kind with clk := { s.clk with unitsHeld := s.clk.unitsHeld ++ [kind] } }

/-- The handoff record (R422). -/
def State.handoffRecord (s : State) (x : Comp) : List Byte :=
  let c := s.cbl
  padTo 4096 (leBytes 4 1 ++ leBytes 2 c.compat ++ leBytes 2 (c.image.nat 2 2) ++ leBytes 4 s.serialHash.toNat ++
    leBytes 1 c.hostGib.toNat ++ leBytes 1 c.genForce ++ leBytes 2 0 ++ leBytes 8 x.len ++ x.digest)

/-- The handoff: the control complex image is checked, measured and written at host address 0x20_0000, the record at 0,
and the harts are released in machine mode at 0x20_0000, with their numbers in a0 and 0 in a1 (R422, R441). -/
def State.handoff (s : State) : State :=
  let s := { s with clk := { s.clk with unitsHeld := s.clk.unitsHeld.filter (· != 5) } }
  let t := s.loadComp 5 2
  match s.cbl.compOf 5 with
  | none => t
  | some x =>
    if t.clk.unitsHeld.contains 5 then t
    else
      let t := (t.writeMem 0x200000 (s.cbl.image.readN x.off x.len)).1
      let t := (t.writeMem 0 (s.handoffRecord x)).1
      let start := Vector.ofFn fun (h : Hart) => { pc := 0x200000, a0 := BitVec.ofNat 64 h.val, a1 := 0, machine := true : HartStart }
      { t with ctx := { t.ctx with running := true, phase := .service, harts := start } }

end Sys2Proof.Machine
end

