-- ==== Sys2Proof/Machine/Complex.lean ====
section
/-! DEFINITION. The control complex and its frames: the rings of R425 and R426, timestamps (R389), its own reset (R487),
and the reset of an Ethernet port (R488). -/

namespace Sys2Proof.Machine

/-! ### Frame rings (R425, R426, R429, R430) -/

/-- Slots of a ring (R429). -/
def FrameRing.slots (r : FrameRing) : Nat := 2 ^ (r.lslots.toNat + 4)

/-- Address of the slot of an index (R425). -/
def FrameRing.slotAt (r : FrameRing) (i : BitVec 16) : Nat := r.base.toNat * 65536 + i.toNat % r.slots * 16384

/-- Frames between head and tail (R425). -/
def FrameRing.fill (r : FrameRing) : Nat := (r.head - r.tail).toNat

/-- Whether a frame is an IEEE 1588 event message: Ethertype 0x88F7 with message type 0 to 3, or UDP port 319 on IPv4 or
IPv6 (R389; message types and header places PRESUMED from IEEE 1588 and the IP standards). -/
def isEventMessage (f : List Byte) : Bool :=
  let o := typeOff f
  let t := natBE f o 2
  (t == 0x88F7 && natAt f (o + 2) 1 % 16 < 4) ||
    (t == 0x0800 && natAt f (o + 11) 1 == 17 && natBE f (o + 2 + natAt f (o + 2) 1 % 16 * 4 + 2) 2 == 319) ||
    (t == 0x86DD && natAt f (o + 8) 1 == 17 && natBE f (o + 44) 2 == 319)

/-- Where the PTP message of a frame begins (R389; header places PRESUMED from IEEE 1588 and the IP standards). -/
def ptpOff (f : List Byte) : Nat :=
  let o := typeOff f + 2
  let t := natBE f (o - 2) 2
  if t == 0x0800 then o + natAt f o 1 % 16 * 4 + 8 else if t == 0x86DD then o + 48 else o

/-- A frame as it leaves: a Sync message whose two-step flag is 0 carries its own timestamp, seconds and nanoseconds, in its
originTimestamp; every other frame leaves as it stands (R389; message places PRESUMED from IEEE 1588, log 91). -/
def oneStep (f : List Byte) (ts : Word) : List Byte :=
  let o := ptpOff f
  if isEventMessage f && natAt f o 1 % 16 == 0 && natAt f (o + 6) 1 / 2 % 2 == 0 && o + 44 ≤ f.length then
    f.take (o + 34) ++ (leBytes 6 (ts.toNat / 1000000000)).reverse ++ (leBytes 4 (ts.toNat % 1000000000)).reverse ++ f.drop (o + 44)
  else f

/-- A timestamp: the time counter, within 4 ns (R389, R465); where in that bound it lies is a free value. -/
def State.stamp (s : State) : Word × State :=
  let (i, s) := s.fresh
  (s.now - 4 + BitVec.ofNat 64 ((Config.free i).toNat % 9), s)

/-- Whether an Ethernet port carries frames. -/
def State.ethUp (s : State) (p : Port) : Bool := s.fastOn && s.ing.port[p].up && s.ing.port[p].phase == .service

/-- A frame for the control complex passes through ING blocks and is written into the receive slot at head with its header,
or discarded and counted where the ring is full. On a data port only the frames that R385 names are passed on; a frame of a
size that the ports do not carry, or a global pause, which is not honoured, is not (R15, R384, R385, R389, R425). -/
def execCcFrameReceive (p : Port) (frame : List Byte) (s : State) : Host.Outcome State Fault Refusal :=
  .next <|
    let r := s.ctx.rx
    if !s.ethUp p || !frameSize frame || (p.val < 4 && frameKind frame != .complex) || natBE frame (typeOff frame) 2 == 0x8808 then s
    else s.throughWelt .ing clickerBlocks (blocksOf frame.length) fun s =>
    if r.fill == r.slots then { s with ctx := { s.ctx with rx := { r with drops := satAdd r.drops 1 } } }
    else
      let ptp := 4 ≤ p.val && isEventMessage frame
      let (ts, s) := if ptp then s.stamp else (0, s)
      let head := leBytes 2 frame.length ++ leBytes 1 p.val ++ leBytes 1 (b2n ptp) ++ leBytes 4 0 ++
        leBytes 8 ts.toNat ++ List.replicate 48 0
      let s := (s.writeMem (r.slotAt r.head) (head ++ frame)).1
      ({ s with ctx := { s.ctx with rx := { r with head := r.head + 1 } } }).irq 17

/-- The frame in the transmit slot at head is sent, its FCS following; a one-step message carries its timestamp, and a timestamp
is written where the slot asks for one and its port takes them. A slot whose header or frame fails its code, or whose length is not that of a frame (DESIGN CHOICE, log
93), is passed over unsent (R76, R384, R389, R425). -/
def execCcFrameTransmit (s : State) : Host.Outcome State Fault Refusal :=
  .next <|
    let r := s.ctx.tx
    if r.head == r.tail || !s.fastOn then s
    else
      let a := r.slotAt r.head
      let (s, st, head) := s.readMem false a 64 .clean
      let p : Port := Fin.ofNat 8 (natAt head 2 1)
      let (s, st2, frame) := s.readMem false (a + 64) (natAt head 0 2) .clean
      let next := fun (s : State) => { s with ctx := { s.ctx with tx := { r with head := r.head + 1 } } }
      if st != .ok || st2 != .ok || !frameSize frame then next s
      else if !s.ethUp p || bitOf s.ing.port[p].paused (framePrio frame) then s
      else s.throughWelt .ing clickerBlocks (blocksOf frame.length) fun s =>
        let (ts, s) := s.stamp
        let s := s.modEth p fun x => { x with tx := if 4 ≤ p.val then oneStep frame ts else frame }
        let s := if natAt head 3 1 / 2 % 2 == 1 && 4 ≤ p.val then
            let s := (s.writeMem (a + 8) (leBytes 8 ts.toNat)).1
            (s.writeMem (a + 3) [BitVec.ofNat 8 (natAt head 3 1 ||| 1)]).1
          else s
        (next s).irq 18

/-- A write of CTX_RXRING or CTX_TXRING: base and size, head and tail zero (R426, R429). -/
def execCtxRingWrite (tx : Bool) (v : Word) (s : State) : Host.Outcome State Fault Refusal :=
  let f := fun (r : FrameRing) =>
    { r with base := BitVec.ofNat 48 (bitsOf v 63 16), lslots := BitVec.ofNat 4 (bitsOf v 3 0), head := 0, tail := 0 }
  .next { s with ctx := if tx then { s.ctx with tx := f s.ctx.tx } else { s.ctx with rx := f s.ctx.rx } }

/-- The runtime frees receive slots; the rule that ignores a tail too far from head is for slots handed to the Clicker
(R425, R430). -/
def execCtxRxidxTailWrite (v : BitVec 16) (s : State) : Host.Outcome State Fault Refusal :=
  .next { s with ctx := { s.ctx with rx := { s.ctx.rx with tail := v } } }

/-- The runtime hands transmit slots over; a tail that would place tail − head above slots is ignored (R425). -/
def execCtxTxidxTailWrite (v : BitVec 16) (s : State) : Host.Outcome State Fault Refusal :=
  .next <|
    if (v - s.ctx.tx.head).toNat > s.ctx.tx.slots then s
    else { s with ctx := { s.ctx with tx := { s.ctx.tx with tail := v } } }

/-! ### Reset of the control complex (R483, R487) -/

/-- Refuse: the harts stop and their caches are discarded without write-back (R487). -/
def State.refuseCtx (s : State) : State :=
  if s.ctx.phase != .service then s else { s with ctx := { s.ctx with phase := .settling, running := false, cache := [] } }

/-- Settle has ended: the write-backs already sent have completed. Reset: its unit epoch advances, every CTX_IRQENh is 0, the hart records are cleared, and transmission stops at the
tail already written (R487). -/
def State.resetCtx (s : State) : State :=
  if s.ctx.phase != .settling then s
  else
    let s := s.ctx.wb.foldl State.land s
    { s with ctx := { s.ctx with phase := .returning, wb := [], irqEn := Vector.replicate 24 0, load := Vector.replicate 24 0
                                 accessFault := Vector.replicate 24 false, faultAddr := Vector.replicate 24 0 }
             clk := { s.clk with ctxEpoch := s.clk.ctxEpoch + 1 } }

/-- Return: the handoff is repeated (R422, R487). -/
def State.returnCtx (s : State) : State := if s.ctx.phase == .returning && s.firmwareUp then s.handoff else s

/-- A write of CTX_RESET (R487, R491). -/
def execCtxReset (s : State) : Host.Outcome State Fault Refusal := .next s.refuseCtx

/-! ### Reset of an Ethernet port (R483, R488) -/

/-- Refuse: frames wait; every connection on the port enters the error state, and the loader stalls where one of them was
reading (R388, R488). -/
def State.refuseEth (s : State) (p : Port) : State :=
  if s.ing.port[p].phase != .service then s
  else
    let s := s.modEth p fun x => { x with phase := .settling }
    let on := (List.finRange 4096).filter fun c => (s.conn c).used && connPort (s.connEntry c) == p && p.val < 4
    on.foldl (fun s c =>
      if (s.conn c).reads.isEmpty then s.setConn c { s.conn c with error := true } else s.stall c) s

/-- Reset: MAC and PCS reset, the link is down, the unit epoch advances (R485, R488). -/
def State.resetEth (s : State) (p : Port) : State :=
  if s.ing.port[p].phase != .settling then s
  else
    let s := (s.ethDown p).modEth p fun x => { x with phase := .returning }
    { s with clk := { s.clk with ethEpoch := vmod s.clk.ethEpoch p (· + 1) } }

/-- Return: the port takes frames again once its link is up. -/
def State.returnEth (s : State) (p : Port) : State :=
  if s.ing.port[p].phase == .returning then s.modEth p fun x => { x with phase := .service } else s

/-- A write of ING_PORTn.reset (R415, R488). -/
def execIngPortReset (p : Port) (s : State) : Host.Outcome State Fault Refusal := .next (s.refuseEth p)

end Sys2Proof.Machine
end

