-- ==== Sys2Proof/Machine/Launch.lean ====
section
/-! DEFINITION. Launching, stopping and resetting a core (R65 to R72, R180, R468, R486). -/

namespace Sys2Proof.Machine

/-! ### Ending a core's streams -/

/-- A stream with every request abandoned (R486). -/
def Stream.abandoned (t : Stream) : Stream := { t with active := false, reqs := [], failed := none, soft := false }

/-- Abandon every outstanding request of a core's streams: their blocks are returned, the use count of every tag
advances, and nothing waits in the ST queue (R164, R230, R486). -/
def State.abandonStreams (s : State) (n : Core) : State :=
  let s := (List.finRange 16).foldl (fun (s : State) t =>
    let x := (s.core n).arch.stOf t
    if x.active then s.giveReqs n t x else s) s
  s.modCore n fun c =>
    { c with tags := [], tagUse := c.tagUse.map (· + 1), stq := Queue.reset
             arch := { c.arch with st := c.arch.st.map Stream.abandoned } }

/-! ### Launch and stop -/

/-- The program-visible state an accepted launch sets: zero and empty but for s1 to s3, and scratch as it was. R66 says
nothing of the stream registers: DESIGN CHOICE, st0 to st15 become zero (R66, log 119). -/
def CoreArch.launch (a : CoreArch) (pc arg : Word) (n : Core) (coord : Word) : CoreArch :=
  let r := CoreArch.reset
  { r with scratch := a.scratch, scratchPoison := a.scratchPoison, pc := pc
           s := ((r.s.set 1 arg).set 2 (BitVec.ofNat 64 n.val)).set 3 coord }

/-- The part's coordinate as s3 holds it: t, c, p and d in bytes 0 to 3 (R66). -/
def State.coordWord (s : State) : Word :=
  fields [(0, s.fab.t.toNat), (8, s.fab.c.toNat), (16, s.fab.p.toNat), (24, s.fab.d.toNat)]

/-- The core after an accepted launch: RUNNING, fetching at CORE_ENTRY, at the level the launch gave (R65, R66, R71). Both
copies of the sticky flags are cleared; DESIGN CHOICE: nan_row, nan_lane and nan_stage keep what they hold (R137, log
122). -/
def CoreSt.launch (c : CoreSt) (n : Core) (coord : Word) : CoreSt :=
  let pc : Word := c.reg.entry.zeroExtend 64 <<< 3
  let reg := { c.reg with run := .running, lastStatus := .ok, faultCause := 0, vxFlags := 0 }
  { c with arch := c.arch.launch pc c.reg.arg n coord, reg := reg, mx := Queue.reset, mv := Queue.reset
           vx := Queue.reset, stq := Queue.reset, cl := Queue.reset, hold := .line ((pc >>> 6).truncate 58)
           level := c.reg.level, region := none, ibuf := [], code := [], flags := 0, isVoter := c.reg.voter, voteSince := false
           resetFault := false, stopping := false, cycles := 0, window := 32, clean := 0, opened := [], packs := 0
           vxProg := 0, stale := [] }

/-- Signals of the Clicker put off by a region of core n are dropped at its launch, which sets the semaphore to 0 (R61,
R406). -/
def State.dropSignals (s : State) (n : Core) : State :=
  match s.commOn s.ing.gComm with
  | none => s
  | some (w, _) => if commCore w = n then { s with ing := { s.ing with later := 0 } } else s

/-- A write of CORE_LAUNCH with start set: its level and voter are written, and the launch is accepted or refused (R48,
R65, R71, R483). -/
def execCoreLaunchStart (n : Core) (level : BitVec 8) (voter : Bool) (s : State) :
    Host.Outcome State Fault Refusal :=
  .next <|
    let s := s.modReg n fun r => { r with level := level, voter := voter }
    let c := s.core n
    if c.busy || c.phase != .service || s.clk.state == .fault then s.modReg n fun r => { r with lastStatus := .busy }
    else if level != 1 then s.modReg n fun r => { r with lastStatus := .versionMismatch }
    else (((s.abandonStreams n).modCore n fun c => c.launch n s.coordWord).dropSignals n).wake (clusterOf n)

/-- A write of CORE_LAUNCH with stop set (R67, R71). -/
def execCoreLaunchStop (n : Core) (s : State) : Host.Outcome State Fault Refusal :=
  .next <|
    if (s.core n).busy then s.beginStop n else s.modReg n fun r => { r with lastStatus := .alreadyDone }

/-- Every started instruction of a stopping core has ended: it enters STOPPED (R67). -/
def execCoreStopQuiesced (n : Core) (s : State) : Host.Outcome State Fault Refusal :=
  .next (if (s.core n).stopping && (s.core n).allIdle then s.enterStopped n else s)

/-- Write the core's key (R178, R180). -/
def execCoreSrkeyWrite (n : Core) (v : Word) (s : State) : Host.Outcome State Fault Refusal :=
  .next (if (s.core n).busy then s else s.modReg n fun r => { r with srkey := v })

/-- Write the core's epoch (R179, R180). -/
def execCoreSrepochWrite (n : Core) (v : BitVec 32) (s : State) : Host.Outcome State Fault Refusal :=
  .next (if (s.core n).busy then s else s.modReg n fun r => { r with srepoch := v })

/-! ### Core reset (R483, R486) -/

/-- Refuse: the core's proxy answers from here; it stops issue, its queues are aborted, with a fault where a signal of
theirs overflows, and its streams' requests abandoned. Commands that stacks accepted run on there (R61, R486). -/
def State.refuseCore (s : State) (n : Core) : State :=
  if (s.core n).phase != .service then s
  else
    let r := s.abortAll n
    let s := match r.2 with
      | some pc => r.1.coreFault n 0x0C pc
      | none => r.1
    (s.abandonStreams n).modCore n fun c => { c with phase := .settling }

/-- The core as its reset leaves it: IDLE, scratch kept, its unit not yet returned (R470, R486). -/
def CoreSt.resetCore (c : CoreSt) : CoreSt :=
  let r := CoreSt.reset
  { r with arch := { r.arch with scratch := c.arch.scratch, scratchPoison := c.arch.scratchPoison }
           nextId := c.nextId, flags := c.flags, flagsHeld := c.flagsHeld, updates := c.updates
           voteWord := c.voteWord, sealWord := c.sealWord, isVoter := c.isVoter, voted := c.voted, sealed := c.sealed, ended := c.ended
           resetFault := c.isVoter, phase := .returning, tagUse := c.tagUse, seq := c.seq }

/-- Settle has ended: the core resets and its unit epoch advances; it counts in the vote as R486 says. -/
def State.resetCore (s : State) (n : Core) : State :=
  if (s.core n).phase != .settling then s
  else
    let s := s.modCore n CoreSt.resetCore
    { s with clk := { s.clk with coreEpoch := vmod s.clk.coreEpoch n (· + 1) } }.pokeVote

/-- Return: the core takes requests, its key and epoch come from stack 0, and its interrupt is raised (R486). -/
def State.returnCore (s : State) (n : Core) : State :=
  if (s.core n).phase != .returning then s
  else
    let k := s.stack[0]
    (s.modCore n fun c =>
      { c with phase := .service, reg := { c.reg with srkey := k.srkey, srepoch := k.srepoch } }).irq n.val

/-- Do the same for the four cores of a cluster. -/
def State.forCluster (s : State) (c : Cluster) (f : State → Core → State) : State :=
  forN 4 (fun i s => f s (Fin.ofNat 16 (4 * c.val + i))) s

end Sys2Proof.Machine
end

