-- ==== Sys2Proof/Machine/StepProto.lean ====
section
/-! DEFINITION. The step protocol's commands: STEP packets and waits (R358 to R361, R369, R370), decisions and what
follows them (R255, R256, R362 to R365), configuration (R374, R375, R379) and the rewind (R372). -/

namespace Sys2Proof.Machine

/-! ### STEP packets -/

/-- The vote group identifier a STEP packet must carry: the one taken at the flag round, before it the one written
(R361, R374). -/
def State.vgidNow (s : State) : BitVec 16 := if s.step.flagSent then s.step.vgidOn else s.step.vgid

/-- A STEP packet of a subtype comes in on port p; one of another vote group is dropped (R361). -/
def State.stepArrive (s : State) (p : Port) (k : Packet) (sub : Nat) (f : State → State) : State :=
  s.arrive p k 9 fun s => if (stepKey k).2.2.1 == sub && k.ctx == s.vgidNow && s.mayVote then f s else s

/-- Whether a VOTE or SEAL from the same sender, of the same subtype and phase is held: one for its own pair, and one for
the pairs to come (R360, R361). -/
def State.heldAlready (s : State) (k : Packet) : Bool :=
  let (e, a, b, i) := stepKey k
  s.step.held.any fun q =>
    let (e', a', b', i') := stepKey q
    q.src == k.src && b == b' && i == i' && ((e == e' && a == a') || (!s.current e a && !s.current e' a'))

/-- A VOTE or SEAL is kept until its phase uses it, and the rounds go on (R358, R361, R521, R522). -/
def State.takeWord (s : State) (k : Packet) : State :=
  let (e, a, _, _) := stepKey k
  if s.earlier e a || s.heldAlready k then s
  else ({ s with step := { s.step with held := s.step.held ++ [k] } }).pokeRound.pokeVote

/-- A VOTE comes in (R358). -/
def execStepVoteReceive (p : Port) (k : Packet) (s : State) : Host.Outcome State Fault Refusal :=
  .next (s.stepArrive p k 1 fun s => s.takeWord k)

/-- A SEAL comes in (R358). -/
def execStepSealReceive (p : Port) (k : Packet) (s : State) : Host.Outcome State Fault Refusal :=
  .next (s.stepArrive p k 2 fun s => s.takeWord k)

/-- Whether the part has reached the phase on axis i of its current pair (R361). -/
def State.reached (s : State) (i : Nat) : Bool :=
  s.step.flagSent && (s.step.flagDone || decide (i ≤ s.step.phase))

/-- A RESEND comes in: every packet kept for its epoch, attempt and phase axis is sent to its sender again; one for a later
pair, or for a phase not reached, is held until the part reaches it (R360, R361). -/
def execStepResendReceive (p : Port) (k : Packet) (s : State) : Host.Outcome State Fault Refusal :=
  .next <| s.stepArrive p k 3 fun s =>
    let (e, a, _, i) := stepKey k
    if s.earlier e a || (s.current e a && s.reached i) then s.sendAll (s.resent k)
    else if s.heldAlready k then s
    else { s with step := { s.step with held := s.step.held ++ [k] } }

/-- A DIGEST comes in (R361, R370). -/
def execStepDigestReceive (p : Port) (k : Packet) (s : State) : Host.Outcome State Fault Refusal :=
  .next <| s.stepArrive p k 4 fun s => s.takeDigest k

/-- Whether the part waits for the word of a part of its line in the phase it is in (R360). -/
def State.awaits (s : State) (x : Coord) : Bool :=
  s.inRound && (s.line s.step.phase).contains x && (s.phaseWord s.step.phase x).isNone

/-- A part of the line is marked absent, and the round goes on (R359, R360). -/
def State.markAbsent (s : State) (x : Coord) : State :=
  ({ s with step := { s.step with got := s.step.got ++ [(x, absentWord)] } }).pokeRound.pokeVote

/-- A vote wait ends without its word: a RESEND goes to the part, and after the third it is absent (R360). -/
def execVoteWaitExpiry (peer : Coord) (s : State) : Host.Outcome State Fault Refusal :=
  .next <|
    if !(s.mayVote && s.awaits peer) then s
    else
      let n := ((s.step.resends.find? fun r => r.1 == peer).map Prod.snd).getD 0
      if n ≥ 3 then s.markAbsent peer
      else
        let sub := 3
        let s := s.send (s.stepPacket peer sub s.step.phase [])
        { s with step := { s.step with resends := (peer, n + 1) :: s.step.resends.filter fun r => r.1 != peer } }

/-! ### Decisions -/

/-- The end of a write of CLE_DECIDE (R363). -/
def State.decided (s : State) (st : Status) : State := { s with step := { s.step with lastStatus := st } }

/-- Whether an epoch and attempt name a decision already taken (R363). -/
def State.taken (s : State) (e : BitVec 32) (a : Byte) : Bool :=
  s.earlier e.toNat a.toNat || s.step.decided == some (e, a)

/-- Whether they are later than the current pair, or the flag round of the attempt has not completed (R363). -/
def State.tooSoon (s : State) (e : BitVec 32) (a : Byte) : Bool :=
  !s.current e.toNat a.toNat || !(s.step.flagSent && s.step.flagDone)

/-- The runtime writes the token with commit (R363). -/
def execCleDecideCommit (epoch : BitVec 32) (attempt : BitVec 8) (result : BitVec 16) (s : State) :
    Host.Outcome State Fault Refusal :=
  .next <|
    if s.taken epoch attempt then s.decided .alreadyDone
    else if s.tooSoon epoch attempt then s.decided .busy
    else if s.fab.fenced then s.abortStep.pokeVote.decided .fenced
    else if !s.step.sealDone then s.decided .busy
    else if result != 0 || s.voteResult != 0 then s.abortStep.pokeVote.decided .aborted
    else s.commitStep.decided .ok

/-- The runtime writes the token with abort (R363, R365). -/
def execCleDecideAbort (epoch : BitVec 32) (attempt : BitVec 8) (_result : BitVec 16) (s : State) :
    Host.Outcome State Fault Refusal :=
  .next <|
    if s.taken epoch attempt then s.decided .alreadyDone
    else if s.tooSoon epoch attempt then s.decided .busy
    else s.abortStep.pokeVote.decided .ok

/-- Whether the loader position of the attempt that stack k decides next is still to be written (R392). -/
def State.positionDue (s : State) (k : StackId) : Bool := s.ing.state != .idle && decide (s.ing.posNo ≤ s.stepOf k)

/-- Whether a near-memory command accepted before the decision that stack k acts on next, on whichever stack, writes epoch
granules of stack k (R255). -/
def State.nmHolds (s : State) (k : StackId) : Bool :=
  s.stack.toList.any fun x => x.queue.any fun q => decide (q.no ≤ s.stepOf k) && s.writesEpoch k q

/-- Every copy of the epoch advances together (R180, R364). -/
def State.addEpoch (s : State) (d : BitVec 32) : State :=
  { s with
    cores := s.cores.map fun c => { c with reg := { c.reg with srepoch := c.reg.srepoch + d } }
    stack := s.stack.map fun k => { k with srepoch := k.srepoch + d } }

/-- A core that waits at STEP.COMMIT receives a commit: OK in sd, RUNNING (R364). -/
def CoreSt.commitWait (c : CoreSt) : CoreSt :=
  match c.hold with
  | .commitWait sd => ({ c with arch := c.arch.setS sd.toNat 0, reg := { c.reg with run := .running } }).advance
  | _ => c

/-- In shadow mode a commit compares the step digest with the one received for its pair (R370). -/
def State.compareDigest (s : State) : State :=
  if s.step.modeOn != 2 then s
  else
    let t := s.step
    let got := t.digestGot.find? fun g => g.2.1 == digestPair s.epoch.toNat t.attempt.toNat
    { s with step :=
      if got.map (fun g => g.2.2) == some t.digest then { t with matched := satAdd t.matched 1 }
      else { t with matched := 0, mismatches := satAdd t.mismatches 1 } }

/-- Every stack has acted on a commit: epochs advance, the pool records are released, the replay record is written, and
the cores leave WAITING (R364). -/
def execCommitFinish (s : State) : Host.Outcome State Fault Refusal :=
  .next <|
    if !(s.fastOn && s.step.committing == some true && s.allActed) then s
    else
      let e := s.epoch
      let s := s.compareDigest.writeReplay
      let s := (s.addEpoch 1).newAttempt 0 true
      let s := (s.releaseBatch e).refill
      let fresh := s.stack.toList.all fun k => k.table.written.isEmpty
      let s := { s with awl := { s.awl with snapValid := fresh }
                        step := { s.step with committing := none }
                        cores := s.cores.map CoreSt.commitWait }
      s.pokeVote

/-! ### Configuration and rewind -/

/-- A write of CLE_STEPCFG, or with grp of CLE_STEPGRP: ignored while a core is WAITING (R374, R375). -/
def execCleStepcfgWrite (grp : Bool) (v : Word) (s : State) : Host.Outcome State Fault Refusal :=
  .next <|
    if s.cores.toList.any fun c => c.reg.run == .waiting then s
    else if grp then { s with step := { s.step with grp := v.truncate 32 } }
    else { s with step := { s.step with vgid := BitVec.ofNat 16 (bitsOf v 63 48), vto := BitVec.ofNat 16 (bitsOf v 47 32)
                                        autoAbort := bitOf v 0 } }

/-- A write of CLE_SHADOW.mode: leaving shadow before 8 matches is refused; the reserved value is ignored (R370,
R379). -/
def execCleShadowModeWrite (mode : BitVec 2) (s : State) : Host.Outcome State Fault Refusal :=
  .next <|
    if mode = 3 then s
    else if mode = 0 && s.step.mode = 2 && s.step.matched.toNat < 8 then { s with step := { s.step with shStatus := .busy } }
    else { s with step := { s.step with mode := mode, shStatus := .ok } }

/-- A stack gives every granule of the last commit its former copy back (R372). -/
def Stack.rewind (k : Stack) : Stack := k.onTable EpochTable.rewind

/-- A rewind: accepted while the snapshot holds and no core is RUNNING or WAITING (R372). -/
def execAwlRewind (s : State) : Host.Outcome State Fault Refusal :=
  .next <|
    if !s.awl.snapValid || s.anyBusy then { s with awl := { s.awl with rewStatus := .busy } }
    else
      let s := ({ s with stack := s.stack.map Stack.rewind }).addEpoch (-1)
      let s := s.newAttempt 0 false
      { s with awl := { s.awl with rewStatus := .ok, snapValid := false }, step := { s.step with decided := none } }

end Sys2Proof.Machine
end

