-- ==== Sys2Proof/Machine/Fabric.lean ====
section
/-! DEFINITION. The torus fabric's commands (R286 to R328): inbound requests and replies, transit, transmission, identity
frames and port states, configuration, fencing and notices; and entry to FAULT (R494). -/

namespace Sys2Proof.Machine

/-! ### Fencing and FAULT -/

/-- The remote streams of core n of a fenced part: requests outstanding are answered FENCED, and nothing more is asked (R164,
R165). -/
def State.fenceStreams (s : State) (n : Core) : State :=
  let mine := (List.finRange 16).filter fun t => ((s.core n).arch.stOf t).active && ((s.core n).arch.stOf t).remote
  mine.foldl (fun (s : State) t =>
    let x := (s.core n).arch.stOf t
    let s := (x.reqs.filter fun r => !r.done).foldl (fun (s : State) r => s.answer n t r.first r.tag .fenced []) s
    if x.next < x.total then s.modStream n t fun x => x.fail .fenced else s) s

/-- The remote streams and the collectives of a fenced part end (R165, R348). -/
def State.fenceWork (s : State) : State :=
  let s := s.coll.active.foldl (fun s a => s.endColl a .fenced 3) s
  (List.finRange 16).foldl State.fenceStreams s

/-- Collectives with a member in the fence table end (R348). -/
def State.failFenced (s : State) : State :=
  (s.coll.active.filter fun a => (s.members (s.collAxes a)).any s.fencedCoord).foldl (fun s a => s.endColl a .fenced 3) s

/-- Entry to FAULT (R494): a fatal record, prev, FAULT_N low, every core stopped, the router fenced for good. low is
the low byte of the record's code. -/
def State.enterFault (s : State) (src low : Nat) (dev : Nat) (data : Word) : State :=
  if s.clk.state == .fault || s.clk.state == .off || s.clk.state == .standby || s.clk.state == .frozen then s
  else
    let s := s.event src low 3 .ok 0 dev data
    let s := { s with clk := { s.clk with prev := s.clk.state, state := .fault, faultN := false } }
    let s := forN 16 (fun i s =>
      let n : Core := Fin.ofNat 16 i
      if (s.core n).busy then s.beginStop n else s) s
    s.fenceRouter.fenceWork

/-- FAB_FENCE.set: the part is fenced under the token, unless it is already (R311, R320, R466). -/
def execFabFenceSet (token : BitVec 24) (s : State) : Host.Outcome State Fault Refusal :=
  .next <|
    let s := { s with fab := { s.fab with tokenReg := token } }
    if s.fab.fenced then s
    else
      let s := { s.fenceRouter with fab := { s.fenceRouter.fab with token := token } }
      let was := s.clk.state
      let s := if was == .ready || was == .joined || was == .active then
          { s with clk := { s.clk with prev := was, state := .fenced } }
        else s
      s.fenceWork

/-- FAB_FENCE.clear: the token kept lifts the fence; any other is ignored, and so is every token in FAULT (R311,
R494). -/
def execFabFenceClear (token : BitVec 24) (s : State) : Host.Outcome State Fault Refusal :=
  .next <|
    let s := { s with fab := { s.fab with tokenReg := token } }
    if !s.fab.fenced || token != s.fab.token || s.clk.state == .fault then s
    else
      let s := { s with fab := { s.fab with fenced := false } }
      let s := forN 8 (fun i s =>
        let p : Port := Fin.ofNat 8 i
        if s.fab.port[p].state == .fenced then s.portTo p .identify s.fab.port[p].reason.toNat else s) s
      let s := if s.clk.state == .fenced then { s with clk := { s.clk with state := s.clk.prev } } else s
      s.checkJoined

/-- The effects of a new fence table entry: packets, ports, collectives and the word of a round under way (R312, R348,
R360, R371). -/
def State.fenceCoord (s : State) (c : Coord) : State :=
  let s := (s.fenceOut c).failFenced
  if s.inRound && (s.line s.step.phase).contains c then s.markAbsent c else s

/-- Ports held FENCED for a partner that is fenced no more identify again (R289). -/
def State.unfencePorts (s : State) : State :=
  forN 8 (fun i s =>
    let p : Port := Fin.ofNat 8 i
    let x := s.fab.port[p]
    if x.state == .fenced && !s.fab.fenced && !x.peerFenced && !s.fencedCoord (BitVec.ofNat 16 (bitsOf x.part 15 0)) then
      s.portTo p .identify x.reason.toNat
    else s) s

/-- Write fence table entry i. -/
def State.setFtbl (s : State) (i : Fin 16) (e : FenceEntry) : State :=
  { s with fab := { s.fab with ftbl := vput s.fab.ftbl i e } }

/-- A write of FAB_FTBLn: setting valid acts at once; clearing it needs the entry's token (R312, R324). -/
def execFabFtblWrite (i : Fin 16) (v : Word) (s : State) : Host.Outcome State Fault Refusal :=
  .next <|
    let e : FenceEntry := { token := BitVec.ofNat 24 (bitsOf v 55 32), valid := bitOf v 16, coord := BitVec.ofNat 16 (bitsOf v 15 0) }
    let old := s.fab.ftbl[i]
    if e.valid then ((s.setFtbl i e).fenceCoord e.coord).unfencePorts
    else if old.valid && old.token != e.token then s
    else (s.setFtbl i e).unfencePorts

/-- The part acts on a notice (R313). -/
def State.actNotice (s : State) (v : Nat) : State :=
  let w := BitVec.ofNat 64 v
  let c := BitVec.ofNat 16 (bitsOf w 15 0)
  let token := BitVec.ofNat 24 (bitsOf w 63 40)
  let t := s.fab.ftbl
  if bitOf w 16 then
    if s.fencedCoord c then s
    else
      match (List.finRange 16).find? fun i => !t[i].valid with
      | none => { s with fab := { s.fab with ftblFull := satAdd s.fab.ftblFull 1 } }
      | some i => (s.setFtbl i { token := token, valid := true, coord := c }).fenceCoord c
  else
    match (List.finRange 16).find? fun i => t[i].valid && t[i].coord == c && t[i].token == token with
    | none => s
    | some i => (s.setFtbl i { t[i] with valid := false }).unfencePorts

/-- A NOTICE comes in (R313). -/
def execNoticeReceive (p : Port) (k : Packet) (s : State) : Host.Outcome State Fault Refusal :=
  .next (s.arrive p k 8 fun s => s.actNotice (natAt k.payload 0 8))

/-- A write of FAB_NOTICE sends a notice; a fenced part sends none, and one to this part itself is local (R302, R313,
R321). -/
def execFabNoticeWrite (v : Word) (s : State) : Host.Outcome State Fault Refusal :=
  .next <|
    let dst := BitVec.ofNat 16 (bitsOf v 23 8)
    let body := bitsOf v 39 24 + b2n (bitOf v 0) * 2 ^ 16 + bitsOf v 63 40 * 2 ^ 40
    if s.fab.fenced || !s.fastOn then s
    else if dst == s.coord then s.actNotice body
    else s.send (s.packet dst 2 8 0x21 0 0 7 (leBytes 8 body))

/-! ### Inbound requests (R229, R297, R298) -/

/-- The unit epoch a reply from an address carries (R296, R484). -/
def State.unitEpoch (s : State) (a : Nat) : BitVec 4 :=
  match s.locate false a with
  | some (.insole k _) => (s.stack[k]).uepoch
  | some (.scratch n _) => s.clk.coreEpoch[n]
  | _ => 0

/-- The bytes a WRITE packet names, as cells: a run, or by the masks of a half granule (R298). -/
def writeCellsOf (k : Packet) : List (Nat × Byte) :=
  let a := k.arg.toNat
  if bitOf k.ctx 15 then
    (List.range 2048).filterMap fun i =>
      if natAt k.payload (i / 64 * 8) 8 / 2 ^ (i % 64) % 2 == 1 then some (a + i, (k.payload.drop (256 + i)).headD 0) else none
  else (List.range k.payload.length).zip k.payload |>.map fun x => (a + x.1, x.2)

/-- An inbound request that has its block is accepted: a write is made, and the reply's epoch is noted; it wakes the cluster
whose scratch it names (R229, R297, R468, R484). -/
def State.acceptInbound (s : State) (k : Packet) : State :=
  let a := k.arg.toNat
  let ep := s.unitEpoch a
  let put := fun (s : State) (st : Status) => { s with fab := { s.fab with inbound := s.fab.inbound ++ [(k, st, ep)] } }
  let s := if s.serves a then s.wakeAt [a] else s
  if !s.serves a then put s .refusedReset
  else if k.kind == 1 then
    let (s, bad) := s.writeCells (writeCellsOf k)
    put s (if bad then .eccUncorrectable else .ok)
  else put s .ok

/-- A packet leaves its input place where its block is free: an inbound request to its block, a transit packet to a FWD
block of its outbound channel's share; one for a port that is not UP is discarded. The place is free then (R229, R295, R303 to
R306). The answer is none while it must wait. -/
def State.moveIn (s : State) (p : Port) (v : Nat) (k : Packet) : Option State :=
  match s.needOf p v k with
  | none => (s.route k.dst).map s.countDrop
  | some (c, q) =>
    let (w, blk) := s.welt.claim c q
    blk.bind fun pool =>
      let s := { s with welt := w }
      if k.dst == s.coord then
        let s := if pool then { s with fab := { s.fab with pooled := s.fab.pooled ++ [k] } } else s
        some (s.acceptInbound k)
      else
        (s.route k.dst).map fun o =>
          { s with fab := { s.fab with fwd := s.fab.fwd ++ [(p.val, o.val, q.owner, { k with dl := q.owner % 2 == 1 })] } }

/-- The first packet of a channel in port p's input that can move. -/
def State.moveOne (s : State) (p : Port) : Option State :=
  (List.range 8).findSome? fun v =>
    match s.fab.port[p].inq.find? fun x => x.1 == v with
    | none => none
    | some x => (s.moveIn p v x.2).map fun t => (t.modPort p fun y => { y with inq := y.inq.erase x }).freePlace p v

/-- Packets waiting in input places move as far as blocks are free, and those that must wait are noted; fuel bounds the
moves. -/
def State.drainInputs (s : State) (fuel : Nat) : State :=
  match fuel with
  | 0 => s.noteInputs
  | f + 1 =>
    match (List.finRange 8).findSome? s.moveOne with
    | none => s.noteInputs
    | some t => t.drainInputs f

/-- More moves than the input places of the part. -/
def inputFuel : Nat := 256

/-- A packet that passed its checks takes a place of its channel at port p's input and moves on as it can; a sender holds
a credit for the place, so a fifth packet of a channel does not come (R306). -/
def State.enqueue (s : State) (p : Port) (k : Packet) : State :=
  let v := inChannel k
  if (s.fab.port[p].inq.filter fun x => x.1 == v).length ≥ 4 then s
  else (s.modPort p fun y => { y with inq := y.inq ++ [(v, k)] }).drainInputs inputFuel

/-- A READ for this part comes in (R297). -/
def execInboundReadReceive (p : Port) (k : Packet) (s : State) : Host.Outcome State Fault Refusal :=
  .next (s.arrive p k 0 fun s => s.enqueue p k)

/-- A WRITE for this part comes in (R298). -/
def execInboundWriteReceive (p : Port) (k : Packet) (s : State) : Host.Outcome State Fault Refusal :=
  .next (s.arrive p k 1 fun s => s.enqueue p k)

/-! ### Replies (R162 to R164, R297) -/

/-- The core, tag and use count a reply names (R296, R299). -/
def replyFor (k : Packet) : Core × Nat × BitVec 4 :=
  (Fin.ofNat 16 (k.dunit.toNat - 1), bitsOf k.ctx 6 0, BitVec.ofNat 4 (bitsOf k.ctx 10 7))

/-- The status a reply carries. -/
def replyStatus (k : Packet) : Status := (Status.ofCode (bitsOf k.arg 7 0)).getD .ok

/-- A reply comes in for a request outstanding: late replies are dropped (R163). -/
def State.reply (s : State) (k : Packet) (writes : Bool) (f : State → Core → Fin 16 → Nat → Nat → State) : State :=
  let (n, tag, uc) := replyFor k
  match (s.core n).tagOf tag uc with
  | none => s
  | some (t, first) =>
    let x := (s.core n).arch.stOf t
    if !x.remote || x.writes != writes then s
    else f (s.modCore n fun c => c.windowStep (k.echo || k.mark)) n t first tag

/-- The bytes of a request's elements among those of a READ_RSP (R155, R297). -/
def rspData (x : Stream) (r : Req) (payload : List Byte) : List Byte :=
  let base := addrLocal (x.elem r.first) / 64 * 64
  (List.range r.cnt).flatMap fun i => padTo x.esize (payload.drop (addrLocal (x.elem (r.first + i)) - base))

/-- A READ_RSP lands: its data in the request's block, or its failure ends the stream (R158, R163, R164, R297). -/
def State.takeRsp (s : State) (k : Packet) : State :=
  s.reply k false fun s n t first tag =>
    let x := (s.core n).arch.stOf t
    match x.reqs.find? fun r => r.first == first with
    | none => s
    | some r =>
      let st := replyStatus k
      s.answer n t first tag st (if st = .ok then rspData x r k.payload else [])

/-- A WRITE_ACK lands (R159, R164, R298). -/
def State.takeAck (s : State) (k : Packet) : State :=
  s.reply k true fun s n t first tag => s.ackWrite n t first tag (replyStatus k)

/-- A reply that is delivered as local traffic lands (R302). -/
def State.takeReply (s : State) (k : Packet) : State := if k.kind == 2 then s.takeRsp k else s.takeAck k

/-- A READ_RSP comes in (R158, R163, R164, R297). -/
def execReadRspReceive (p : Port) (k : Packet) (s : State) : Host.Outcome State Fault Refusal :=
  .next (s.arrive p k 2 fun s => s.takeRsp k)

/-- A WRITE_ACK comes in (R159, R164, R298). -/
def execWriteAckReceive (p : Port) (k : Packet) (s : State) : Host.Outcome State Fault Refusal :=
  .next (s.arrive p k 3 fun s => s.takeAck k)

/-! ### Completing inbound requests -/

/-- The reply to an inbound request: ctx, src and dst from the request, its mark as echo (R296, R297, R310). -/
def State.replyPacket (s : State) (k : Packet) (st : Status) (ep : BitVec 4) (data : List Byte) : Packet :=
  let n := if k.kind == 0 && st = .ok then data.length - 1 else 0
  let r := s.packet k.src 1 (if k.kind == 0 then 2 else 3) (bitsOf k.ctx 14 11 + 1) (BitVec.ofNat 48 st.code) k.ctx n
    (if k.kind == 0 && st = .ok then data else [])
  { r with uepoch := ep, echo := k.mark }

/-- How an accepted access ends, and the data of a read: the code's errors are met by a read, and by
the read of the words that a write covers in part (R229, R235, R236, R297). -/
def State.inboundResult (s : State) (k : Packet) (st : Status) (e : Ecc) : State × Status × List Byte :=
  if st != .ok then (s, st, [])
  else if k.kind != 0 then
    let cells := writeCellsOf k
    let bad := fun (s : State) => cells.any fun c => s.anyPoison true c.1 1
    let t := s.maskedErrors cells e
    (t, if bad t && !bad s then .eccUncorrectable else .ok, [])
  else s.readMem false k.arg.toNat (k.len.toNat + 1) e

/-- The oldest inbound access completes and its reply leaves for injection; a reply whose unit has been reset since is
dropped, and one for this part itself is delivered as local traffic (R229, R297, R302, R484). e: what the code finds. -/
def execInboundReplySend (e : Ecc) (s : State) : Host.Outcome State Fault Refusal :=
  .next <|
    match s.fab.inbound with
    | [] => s
    | (k, st, ep) :: rest =>
      if !s.fastOn then s
      else
        let s := { s with fab := { s.fab with inbound := rest } }
        let free := fun (s : State) => (s.freeInbound (inboundClass k) k).drainInputs inputFuel
        if s.unitEpoch k.arg.toNat != ep then free s
        else
          let (s, st, data) := s.inboundResult k st e
          let r := s.replyPacket k st ep data
          if r.dst == s.coord then free (s.takeReply r)
          else
            let t := s.send r
            if t.fab.inject.length > s.fab.inject.length then
              (if t.fab.pooled.contains k then
                { t with fab := { t.fab with pooled := t.fab.pooled.erase k ++ ((t.fab.inject.getLast?).map fun x => x.2.2).toList } }
              else t)
            else free t

/-! ### Transit and transmission (R303 to R310) -/

/-- A packet for another part comes in: it is checked, routed, and moved into a FWD block of its outbound channel (R301,
R303 to R306). -/
def execTransitPacketReceive (p : Port) (k : Packet) (s : State) : Host.Outcome State Fault Refusal :=
  .next <|
    if !s.portOpen p then s
    else
      match s.discard p k with
      | some d => (s.countDiscard p k d).freePlace p (inChannel k)
      | none => if k.dst == s.coord then s else s.enqueue p k

/-- Whether a packet is a reply to another part's request. -/
def isReply (k : Packet) : Bool := k.kind == 2 || k.kind == 3

/-- The first packet ready for port p on channel vc from a source: an input's FWD blocks, or local injection as source 8,
which inject_stop holds back but for the replies to other parts' requests (R307, R314). -/
def State.readyFrom (s : State) (p vc src : Nat) : Option Packet :=
  if src = 8 then
    if s.fab.fenced then none
    else (s.fab.inject.find? fun x => x.1 == p && x.2.1 == vc && (!s.fab.injectStop || isReply x.2.2)).map fun x => x.2.2
  else (s.fab.fwd.find? fun x => x.1 == src && x.2.1 == p && x.2.2.1 == vc).map fun x => x.2.2.2

/-- The next source in round-robin order after the last one granted (R307). -/
def State.grantOf (s : State) (p vc last : Nat) : Option (Nat × Packet) :=
  (List.range 9).findSome? fun i =>
    let src := (last + 1 + i) % 9
    (s.readyFrom p vc src).map fun k => (src, k)

/-- What port p sends next: of the channels that have a packet ready and a credit, the next in round-robin order after the one
granted last, its source and the packet (R307). -/
def State.nextOut (s : State) (p : Port) : Option (Nat × Nat × Packet) :=
  let x := s.fab.port[p]
  (List.range 8).findSome? fun i =>
    let v := (x.lastVc + 1 + i) % 8
    if vgetD x.credit v 0 = 0 then none else (s.grantOf p.val v (vgetD x.granted v 8)).map fun y => (v, y)

/-- Take a packet out of its FWD block or out of local injection; its block is returned as it leaves (R230). -/
def State.takeOut (s : State) (p vc src : Nat) (k : Packet) : State :=
  if src = 8 then
    ({ s with fab := { s.fab with inject := s.fab.inject.erase (p, vc, k) } }).freeReply k
  else ({ s with fab := { s.fab with fwd := s.fab.fwd.erase (src, p, vc, k) } }).giveBlock .fwd vc false

/-- A packet whose staging block fails its code as it is read to be sent: the word is not forwarded. A READ_RSP carries
ECC_UNCORRECTABLE instead, a write request of this part ends with it, and nothing else is sent (R76, R235, R297). The answer
is what is sent. -/
def State.badBlock (s : State) (src : Nat) (k : Packet) : State × Option Packet :=
  if src != 8 then (s, none)
  else if k.kind == 2 then
    (s, some { k with arg := BitVec.ofNat 48 Status.eccUncorrectable.code, len := 0, payload := [] })
  else if k.kind == 3 then (s, some k)
  else if k.kind == 1 then
    let n : Core := Fin.ofNat 16 (bitsOf k.ctx 14 11)
    let tag := bitsOf k.ctx 6 0
    match (s.core n).tagOf tag (BitVec.ofNat 4 (bitsOf k.ctx 10 7)) with
    | some (t, first) => (s.answer n t first tag .eccUncorrectable [], none)
    | none => (s, none)
  else (s, none)

/-- Output port p sends the packet whose turn it is, with a new CRC, marked where enough packets wait (R296, R306, R307,
R310). e: what the code finds in the packet's staging block. -/
def execPacketTransmit (p : Port) (e : Ecc) (s : State) : Host.Outcome State Fault Refusal :=
  .next <|
    if !s.portOpen p then s
    else
      match s.nextOut p with
      | none => s
      | some (vc, src, k) =>
        let full := s.waitingFor p ≥ max 1 s.fab.thresh.toNat
        let s := s.takeOut p.val vc src k
        let (s, fails) := s.stagingErrors e
        let (s, out) := if fails then s.badBlock src k else (s, some k)
        let s := s.modPort p fun y =>
          let y := { y with lastVc := vc, granted := vputD y.granted vc src }
          match out with
          | none => y
          | some k => { y with tx := some (sealed { k with mark := k.mark || full })
                               credit := vputD y.credit vc (vgetD y.credit vc 0 - 1) }
        s.drainInputs inputFuel

/-- The receiver returns a credit (R306). -/
def execLinkCreditReturn (p : Port) (vc : Fin 8) (s : State) : Host.Outcome State Fault Refusal :=
  .next (if s.portOpen p then s.modPort p fun y => { y with credit := vmod y.credit vc fun c => min 4 (c + 1) } else s)

/-! ### Identity frames (R289, R292, R293) -/

/-- The fields of an identity frame before its CRC; fenced tells that this part is fenced (R292, R311). -/
def State.frameBody (s : State) (p : Port) (farLane : BitVec 4) (farCsym : BitVec 16) : List Byte :=
  let x := s.fab.port[p]
  let v2 := x.ver == 2
  [1, BitVec.ofNat 8 (p.val + b2n x.accept * 8 + b2n s.fab.fenced * 16)] ++ leBytes 2 s.coord.toNat ++
    leBytes 2 (bitsOf x.last 15 0) ++ [x.lanesOk, 0x21] ++ s.cbl.fuses.readN 16 2 ++ leBytes 2 s.cbl.unitGen.toNat ++
    leBytes 4 s.serialHash.toNat ++ [BitVec.ofNat 8 x.reason.toNat, if v2 then farLane.zeroExtend 8 else 0] ++
    leBytes 2 (if v2 then farCsym.toNat else 0)

/-- A port that has trained sends an identity frame (R289, R292). -/
def execIdentityFrameSend (p : Port) (farLane : BitVec 4) (farCsym : BitVec 16) (s : State) :
    Host.Outcome State Fault Refusal :=
  .next <|
    let x := s.fab.port[p].state
    if s.fastOn && x != .down && x != .training then
      let body := s.frameBody p farLane farCsym
      s.modPort p fun y => { y with frame := body ++ leBytes 4 (crc32c body).toNat }
    else s

/-- Whether a frame is valid: its CRC and format (R292). -/
def frameValid (f : List Byte) : Bool :=
  f.length == 24 && natAt f 20 4 == (crc32c (f.take 20)).toNat && natAt f 0 1 == 1

/-- Record the fields of a valid frame (R292, R326, R328). -/
def FabPort.record (x : FabPort) (f : List Byte) : FabPort :=
  { x with heard := true, peerFenced := natAt f 1 1 / 16 % 2 == 1
           part := fields [(0, natAt f 2 2), (16, natAt f 8 2), (32, natAt f 12 4)]
           partx := fields [(0, natAt f 4 2), (16, natAt f 7 1 % 16), (20, natAt f 7 1 / 16), (24, natAt f 1 1 % 8),
             (28, natAt f 16 1 % 16)]
           fwGen := BitVec.ofNat 16 (natAt f 10 2), farLane := BitVec.ofNat 4 (natAt f 17 1)
           farCsym := BitVec.ofNat 16 (natAt f 18 2) }

/-- Whether this part or the partner is fenced, and the reason that gives (R293 order 6). -/
def State.fenceReason (s : State) (p : Port) : Option Nat :=
  let x := s.fab.port[p]
  if s.fab.fenced then some 12
  else if x.peerFenced || s.fencedCoord (BitVec.ofNat 16 (bitsOf x.part 15 0)) then some 13
  else none

/-- The first failing check of R293, after the frame is recorded: the state and reason it sets. -/
def State.identify (s : State) (p : Port) (f : List Byte) : Option (LinkState × Nat) :=
  let last := s.fab.port[p].last
  let lo := natAt f 7 1 % 16
  let hi := natAt f 7 1 / 16
  if !(lo ≤ hi && lo ≤ 2 && 1 ≤ hi) then some (.down, 5)
  else if natAt f 1 1 % 8 != (if p.val % 2 == 0 then p.val + 1 else p.val - 1) then some (.quarantine, 8)
  else if natAt f 2 2 != bitsOf last 15 0 then some (.quarantine, 7)
  else if bitsOf last 31 16 != 0 && natAt f 8 2 != bitsOf last 31 16 then some (.quarantine, 9)
  else if bitsOf last 63 32 != 0 && natAt f 12 4 != bitsOf last 63 32 then some (.quarantine, 10)
  else (s.fenceReason p).map fun r => (.fenced, r)

/-- A valid identity frame comes in: it is recorded and checked, and sets the port's state (R292, R293). A port in FENCED
leaves it only once neither part is fenced, whatever else a frame holds, and sends accept 0 (DEDUCED: R289 over R293, log
127). -/
def execIdentityFrameReceive (p : Port) (f : List Byte) (s : State) : Host.Outcome State Fault Refusal :=
  .next <|
    let was := s.fab.port[p].state
    if !s.fastOn || was == .down || was == .training || !frameValid f then s
    else
      let s := s.modPort p fun x => x.record f
      if was == .fenced then
        match s.fenceReason p with
        | some r => s.modPort p fun x => { x with reason := BitVec.ofNat 4 r }
        | none => s.portTo p .identify s.fab.port[p].reason.toNat
      else
        match s.identify p f with
        | some (st, r) =>
          let s := (s.modPort p fun x => { x with accept := false }).portTo p st r
          if st == .down then s.tryTrain p else s
        | none =>
          let s := s.modPort p fun x => { x with accept := true }
          if natAt f 1 1 / 8 % 2 == 1 then
            let ver := min 2 (natAt f 7 1 / 16)
            let s := s.portTo p .up 0
            let s := if was == .up then s else s.modPort p fun x => { x with ver := BitVec.ofNat 4 ver }
            s.checkJoined
          else s.portTo p .quarantine 11

/-! ### Training and loss (R289, R290) -/

/-- How many bits of a byte are set. -/
def popCount (b : Byte) : Nat := ((List.range 8).filter fun i => bitOf b i).length

/-- Training ends: the lanes locked on both sides are used; none of them takes the port down with reason 3 (R289,
R290). -/
def execPortTrainingComplete (p : Port) (mask : BitVec 8) (s : State) : Host.Outcome State Fault Refusal :=
  .next <|
    if !(s.fastOn && s.fab.port[p].state == .training) then s
    else
      let n := s.portLanes p
      let m := BitVec.ofNat 8 (mask.toNat % 2 ^ n)
      let w := popCount m
      if w = 0 then s.portDown p 3
      else
        let s := (s.modPort p fun x => { x with lanesOk := m, width := BitVec.ofNat 4 w }).portTo p .identify
          s.fab.port[p].reason.toNat
        if w < n then s.health 0x03 linkCause p.val else s

/-- The lanes do not settle: DOWN with reason 3, and the port trains again (R289). -/
def execTrainingTimeout (p : Port) (s : State) : Host.Outcome State Fault Refusal :=
  .next (if s.fastOn && s.fab.port[p].state == .training then s.portDown p 3 else s)

/-- No valid frame within 10 ms: DOWN with reason 4 (R289). -/
def execIdentifyTimeout (p : Port) (s : State) : Host.Outcome State Fault Refusal :=
  .next (if s.fastOn && s.fab.port[p].state == .identify then s.portDown p 4 else s)

/-- 10 ms after DOWN for reason 4 or 6, a port with auto set trains again (R289). -/
def execAutoRetrainTimer (p : Port) (s : State) : Host.Outcome State Fault Refusal :=
  .next <|
    let x := s.fab.port[p]
    if s.fastOn && x.state == .down && x.auto && !x.disable && s.portLanes p != 0 && (x.reason == 4 || x.reason == 6) then
      s.portTo p .training x.reason.toNat
    else s

/-- Whether a port has lanes in use. -/
def LinkState.trained (x : LinkState) : Bool := x != .down && x != .training

/-- A port goes down with reason 6: the entry is counted (R290, R327). -/
def State.lossDown (s : State) (p : Port) : State :=
  let s := (s.portDown p 6).health 0x03 linkCause p.val
  s.modPort p fun x => { x with downs := satAdd x.downs 1 }

/-- A lane in use loses lock (R290). -/
def execLaneLossOfLock (p : Port) (s : State) : Host.Outcome State Fault Refusal :=
  .next (if s.fastOn && s.fab.port[p].state.trained then s.lossDown p else s)

/-- More than 16 code words in 1 ms could not be corrected; those that no packet overlapped are counted now (R290, R327). -/
def execFecErrorLimit (x : LinkErrors) (s : State) : Host.Outcome State Fault Refusal :=
  .next <|
    if s.fastOn && s.fab.port[x.p].state.trained then
      (s.lossDown x.p).modPort x.p fun y => { y with fecUe := satAdd y.fecUe x.ue }
    else s

/-- Background recalibration of a lane of the port's link: no bit changes (R496). -/
def execFabricLaneRecal (_p : Port) (s : State) : Host.Outcome State Fault Refusal := .next s

/-! ### Configuration and port control (R288, R314 to R317, R325, R326) -/

/-- The result of a lane_apply's check of the written split and extents (R288). -/
def Fabric.laneErr (f : Fabric) : Nat :=
  let n := fun (i : Nat) => bitsOf f.lanes (4 * i + 3) (4 * i)
  let ext := [f.extT.toNat, f.extC.toNat, f.extP.toNat, f.extD.toNat]
  let lanes := [n 0, n 1, n 2, n 3]
  if lanes.sum > 16 then 1
  else if lanes.any (· > 8) then 2
  else if (lanes.zip ext).any fun x => (x.2 == 1 && x.1 != 0) || (x.2 ≥ 2 && x.1 == 0) then 3
  else if (ext.zip [8, 16, 16, 32]).any fun x => x.1 == 0 || x.1 > x.2 then 4
  else 0

/-- FAB_CTRL.lane_apply: the split and the extents take effect once every port is DOWN with disable set (R288); a part
that was JOINED is READY again (R466). -/
def execFabLaneApply (s : State) : Host.Outcome State Fault Refusal :=
  .next <|
    let f := s.fab
    if !(f.port.toList.all fun p => p.state == .down && p.disable) then { s with fab := { f with lastStatus := .busy } }
    else
      let err := f.laneErr
      let f := { f with lastStatus := .ok, cfgErr := BitVec.ofNat 4 err }
      if err != 0 then { s with fab := f }
      else
        let f := { f with lanesOn := f.lanes, extOn := #v[f.extT, f.extC, f.extP, f.extD] }
        let s := { s with fab := f }
        let s := forN 8 (fun i s =>
          let p : Port := Fin.ofNat 8 i
          s.modPort p fun x => { x with reason := if s.portLanes p == 0 then 2 else 1 }) s
        let s := if s.clk.state == .joined then { s with clk := { s.clk with state := .ready } } else s
        s.checkJoined

/-- FAB_CTRL.clr_cnt (R316). -/
def execFabClrCnt (s : State) : Host.Outcome State Fault Refusal :=
  .next { s with fab := { s.fab with
    ftblFull := 0, discRoute := 0, discFenced := 0, discBad := 0
    port := s.fab.port.map fun p => { p with downs := 0, drop := 0, fecUe := 0, crc := 0 } } }

/-- FAB_CTRL.inject_stop (R314). -/
def execFabInjectStop (on : Bool) (s : State) : Host.Outcome State Fault Refusal :=
  .next { s with fab := { s.fab with injectStop := on } }

/-- A write of FAB_TOPO, ignored unless every port is DOWN; the extents take effect at lane_apply (R288, R317). -/
def execFabTopoWrite (v : Word) (s : State) : Host.Outcome State Fault Refusal :=
  .next <|
    if s.fab.port.toList.all fun p => p.state == .down then
      let b := fun (i : Nat) => BitVec.ofNat 8 (bitsOf v (8 * i + 7) (8 * i))
      { s with fab := { s.fab with extD := b 7, extP := b 6, extC := b 5, extT := b 4, d := b 3, p := b 2, c := b 1, t := b 0 } }
    else s

/-- A write of FAB_LASTn, checked at the port's next frame (R294). -/
def execFabLastWrite (p : Port) (v : Word) (s : State) : Host.Outcome State Fault Refusal :=
  .next (s.modPort p fun x => { x with last := v })

/-- FAB_PORTn.retrain: through DOWN with reason 1, then training (R315). -/
def execFabPortRetrain (p : Port) (s : State) : Host.Outcome State Fault Refusal := .next (s.portDown p 1)

/-- FAB_PORTn.ident: a trained port identifies again (R315). -/
def execFabPortIdent (p : Port) (s : State) : Host.Outcome State Fault Refusal :=
  .next <|
    let x := s.fab.port[p]
    if x.state.trained then s.portTo p .identify x.reason.toNat else s

/-- FAB_PORTn.disable: set, the port is DOWN with reason 1; cleared, it trains where its axis has lanes (R289, R315). -/
def execFabPortDisable (p : Port) (on : Bool) (s : State) : Host.Outcome State Fault Refusal :=
  .next <|
    let s := s.modPort p fun x => { x with disable := on }
    if on then s.portDown p 1 else s.tryTrain p

end Sys2Proof.Machine
end

