-- ==== Sys2Proof/Machine/WeltInsole.lean ====
section
/-! DEFINITION. The commands of the Welt and of the Insole stacks: configuration, block grants, scrub, stack reset,
sparing, refresh and throttling (R225 to R238, R250 to R263, R277 to R285, R496, R520). -/

namespace Sys2Proof.Machine

/-! ### The Welt -/

/-- Pools of the configured communicators, in blocks (R228, R331). -/
def State.poolBlocks (s : State) : Nat :=
  (s.coll.comms.map fun x => match x.2.on with
    | some (_, k) => k.toNat
    | none => 0).sum

/-- The smallest reservations the check accepts, in class order (R228). -/
def State.minRes (s : State) : List Nat := [768, 768, 16, s.poolBlocks, 512, 9088, 4]

/-- The result of the check of the written Welt configuration (R234). -/
def State.wltCheck (s : State) : Nat :=
  let w := s.welt
  let res := w.res.toList.map fun r => r.res.toNat
  let staging := 131072 - w.area.toNat * 64
  if w.area.toNat > 2048 then 1
  else if res.sum > staging then 2
  else if (res.zip s.minRes).any fun x => x.1 < x.2 then 3
  else if (w.res.toList.zipIdx).any fun x => x.2 != 3 && x.1.cap.toNat < x.1.res.toNat then 4
  else if (w.fwdvc.toList.map BitVec.toNat).sum != (w.res[2]).res.toNat || w.fwdvc.toList.any (· < 2) then 5
  else 0

/-- The Welt with the written configuration in effect: contents below the smaller boundary stay, and what moves between
the program area and staging is zero (R233). -/
def Welt.take (w : Welt) : Welt :=
  let kept := min w.area.toNat w.areaOn.toNat * 2 ^ 18
  { w with areaOn := w.area, resOn := w.res, fwdvcOn := w.fwdvc, mem := w.mem.below kept
           poison := w.poison.filter fun x => x * 16 < kept }

/-- Apply the Welt configuration while the part is quiesced (R233, R234). -/
def execWltApply (s : State) : Host.Outcome State Fault Refusal :=
  .next <|
    if s.anyBusy || s.welt.use.toList.any (fun u => u.used != 0) then
      { s with welt := { s.welt with lastStatus := .busy } }
    else
      let err := s.wltCheck
      let w := { s.welt with lastStatus := .ok, cfgErr := BitVec.ofNat 4 err }
      { s with welt := if err = 0 then w.take else w }

/-- Clear both counts of WLT_ECC (R240). -/
def execWltClrCnt (s : State) : Host.Outcome State Fault Refusal :=
  .next { s with welt := { s.welt with ue := 0, ce := 0 } }

/-- Set every peak to the present use (R240). -/
def execWltClrPeak (s : State) : Host.Outcome State Fault Refusal :=
  .next { s with welt := { s.welt with use := s.welt.use.map fun u => { u with peak := u.used } } }

/-- A client that waits for a block of a class is granted one (R227). -/
def execWeltBlockGrant (c : WeltClass) (s : State) : Host.Outcome State Fault Refusal :=
  .next <|
    if !s.fastOn then s
    else
      match s.welt.grant c with
      | none => s
      | some (u, w) =>
        let s := { s with welt := w }
        match u with
        | .input _ _ => s.drainInputs inputFuel
        | _ => s

/-- Beats of one bank: two to each of its 4,096 lines (R222, R223, R237). -/
def bankBeats : Nat := 8192

/-- The first of the two 16 B words of a beat of a bank, by its row and half (R222, R223). -/
def beatWord (bank beat : Nat) : Nat := 4 * lineIn bank (beat / 2 % 4096) + 2 * (beat % 2)

/-- One beat more of a bank is read; the sweep ends when every bank has had all its beats (R237, R245). -/
def Welt.scrubbed (w : Welt) (bank : Nat) : Welt :=
  let b := SMap.put 0 w.beats bank (SMap.get 0 w.beats bank + 1)
  if b.length = 2048 && b.all fun x => bankBeats ≤ x.2 then
    { w with beats := (b.map fun x => (x.1, x.2 - bankBeats)).filter fun x => x.2 != 0, sweeps := w.sweeps + 1 }
  else { w with beats := b }

/-- The patrol scrub reads the next beat of a bank, in the program area or in staging. e is what the code finds in the
beat's two words: a correction is counted and written back, and a word that cannot be corrected is poisoned (R235, R237). -/
def execWeltScrubBeat (bank : BitVec 11) (e : Ecc × Ecc) (s : State) : Host.Outcome State Fault Refusal :=
  .next <|
    if !(s.fastOn && s.welt.scrubEn) then s
    else
      let b := bank.toNat
      let w := beatWord b (SMap.get 0 s.welt.beats b)
      let meet := fun (s : State) (w : Nat) (e : Ecc) => match e with
        | .corrected => s.wordError (.welt w) false
        | .uncorrectable => s.wordError (.welt w) true
        | _ => s
      let s := meet (meet s w e.1) (w + 1) e.2
      { s with welt := s.welt.scrubbed b }

/-! ### The Insole map -/

/-- Granules in a GiB. -/
def gibGranules : Nat := 2 ^ 18

/-- The map with the written values in effect. -/
def InsMap.take (m : InsMap) : InsMap := { m with sigmaOn := m.sigma, lambdaOn := m.lambda, eprOn := m.epr }

/-- Whether an epoch range in effect lies in the interleaved or the stack-local region (R253, R279). -/
def InsMap.rangeOk (m : InsMap) (e : Epr) : Bool :=
  let lo := e.base.toNat
  let hi := lo + e.count.toNat
  let mid := 24 * m.gib * gibGranules
  let top := 24 * (m.gib + m.lambdaOn.toNat) * gibGranules
  e.count == 0 || hi ≤ mid || (mid ≤ lo && hi ≤ top)

/-- Whether two used ranges overlap. -/
def Epr.overlaps (a b : Epr) : Bool :=
  a.count != 0 && b.count != 0 && a.base.toNat < b.base.toNat + b.count.toNat && b.base.toNat < a.base.toNat + a.count.toNat

/-- Epoch granules of a stack (R253, R279). -/
def InsMap.epochGranules (m : InsMap) (k : StackId) : Nat :=
  (m.eprOn.toList.map fun e => m.below k (e.base.toNat + e.count.toNat) - m.below k e.base.toNat).sum

/-- The result of the check of the map in effect (R279). -/
def InsMap.check (m : InsMap) : Nat :=
  let es := m.eprOn.toList
  if m.lambdaOn.toNat + m.sigmaOn.toNat > 63 then 1
  else if m.sigmaOn.toNat > 32 then 2
  else if es.any (fun e => !m.rangeOk e) || (es.zipIdx).any fun x => (es.zipIdx).any fun y => x.2 < y.2 && x.1.overlaps y.1
    then 3
  else if (List.finRange 24).any fun k => m.epochGranules k > m.sigmaOn.toNat * gibGranules then 4
  else 0

/-- The granule number of an address from its stack and the granule of its stack offset, the inverse of R251. -/
def InsMap.granuleAt (m : InsMap) (k : StackId) (h : Nat) : Nat :=
  let mid := m.gib * gibGranules
  if h < mid then h * 24 + k.val else 24 * mid + k.val * (m.lambdaOn.toNat * gibGranules) + (h - mid)

/-- A stack brings home every epoch granule whose committed copy lies in its twin (R520). -/
def Stack.bringHome (x : Stack) (m : InsMap) (k : StackId) : Stack :=
  (if x.saved then x.maint else x.table).twin.foldl (fun (x : Stack) h =>
    let t := m.twinOff k (m.granuleAt k h)
    { x with dram := x.dram.copy t (h * 4096) 4096, poison := copyPoison x.poison t (h * 4096) }) x

/-- An epoch table and records with nothing in the twins, nothing written and nothing to settle, and no write accepted since
a decision (R252, R520). -/
def Stack.freshTable (x : Stack) : Stack :=
  { x with table := EpochTable.fresh, maint := EpochTable.fresh, decisions := [], late := [] }

/-- Whether stream x of core c is outstanding to a stack: a request of it that names one is not answered, or it goes on and the
next does (R252). -/
def CoreSt.streamAtStack (c : CoreSt) (x : Stream) : Bool :=
  x.active && (x.reqs.any (fun r => !r.done && r.via.any fun u => 16 ≤ u.1) ||
    (!c.stopAt x.id && !x.broken && !x.remote && x.next < x.total && addrLocal (x.elem x.next) < 0x18000000000))

/-- Whether the part is quiesced for an apply of the map: no core RUNNING or WAITING, and no stream of this part or another
and no near-memory command outstanding to any stack, nor a hart's write-back outside the host region (R252, R419). Any other
access of the Clicker or of a hart ends with its own command. -/
def State.mapQuiet (s : State) : Bool :=
  !s.anyBusy && s.cores.toList.all (fun c => c.arch.st.toList.all fun x => !c.streamAtStack x) &&
    s.fab.inbound.all (fun x => decide (0x18000000000 ≤ x.1.arg.toNat)) &&
    s.ctx.wb.all (fun w => decide (0x18000000000 ≤ w.line * 64 ∨ w.line * 64 < s.ctx.hostGib.toNat * 2 ^ 30)) && s.stack.toList.all fun x => x.queue.isEmpty

/-- Apply INS_MAP and the epoch ranges (R252, R253, R279, R520). -/
def execInsApply (s : State) : Host.Outcome State Fault Refusal :=
  .next <|
    if !s.mapQuiet then s.modStack 0 fun x => { x with lastStatus := .busy }
    else
      let s := s.modStack 0 fun x => { x with lastStatus := .ok }
      let new := s.ins.take
      let err := new.check
      let s := { s with ins := { s.ins with cfgErr := BitVec.ofNat 4 err } }
      if err ≠ 0 then s
      else
        let s := s.actAll
        let old := s.ins
        let same := old.sigmaOn == old.sigma && old.lambdaOn == old.lambda
        let s := forN 24 (fun i s =>
          let k : StackId := Fin.ofNat 24 i
          s.modStack k fun x => (if same then x.bringHome old k else x).freshTable) s
        { s with ins := s.ins.take, awl := { s.awl with snapValid := false } }

/-! ### Stack reset -/

/-- Begin the reset of a stack that is READY: from here its proxy refuses every new request; with clear it is refused
while the part is ACTIVE (R277, R278, R483). -/
def State.beginStackReset (s : State) (k : StackId) (clear : Bool) : State :=
  if s.stack[k].state != .ready then s
  else if clear && s.isActive then s.modStack k fun x => { x with lastStatus := .busy }
  else s.modStack k fun x => { x with lastStatus := .ok, state := .quiescing, clearing := clear }

/-- The settle of a resetting stack ends: the running command finishes the granule in progress, and it and the queued
ones end with REFUSED_RESET; the epoch table is saved to the maintenance area; the logic die resets and the unit epoch
advances (R249, R267, R277). -/
def State.stackSettled (s : State) (k : StackId) : State :=
  if s.stack[k].state != .quiescing then s
  else
    let s := match s.stack[k].queue with
      | [] => s
      | x :: _ => if s.mayRun x then (s.runShare k x false .clean).1.s else s
    let s := s.stack[k].queue.foldl (fun s x => s.nmReport k x .refusedReset 0 0) s
    s.modStack k fun x => { x with state := .resetting, uepoch := x.uepoch + 1, maint := x.table, table := EpochTable.fresh }

/-- A resetting stack's channels retrain (R277). -/
def State.stackTrains (s : State) (k : StackId) : State :=
  if s.stack[k].state == .resetting then s.modStack k fun x => { x with state := .training } else s

/-- A stack cleared: every line zero with valid code, the epoch table as an apply sets it (R277). -/
def Stack.cleared (x : Stack) : Stack := { x.freshTable with dram := [], poison := [] }

/-- A reset stack has its epoch table back and accepts requests again, cleared where that was asked for (R277). -/
def State.stackBack (s : State) (k : StackId) : State :=
  let x := s.stack[k]
  if x.state == .resetting || x.state == .training then
    s.modStack k fun x =>
      { (if x.clearing then x.cleared else { x with table := x.maint, maint := EpochTable.fresh }) with
        state := .ready, clearing := false }
  else s

/-- A write of INS_CTRL.reset (R277, R278). -/
def execInsReset (k : StackId) (clear : Bool) (s : State) : Host.Outcome State Fault Refusal :=
  .next (s.beginStackReset k clear)

/-- The stack has retrained, restores its epoch table and accepts requests (R277). -/
def execStackResetReturn (k : StackId) (s : State) : Host.Outcome State Fault Refusal :=
  .next (if s.fastOn then s.stackBack k else s)

/-- Whether the code of a stack's epoch table, or of its records of written granules, finds an error that it cannot correct. -/
def tableLost (e : Ecc) : Bool :=
  match e with
  | .uncorrectable => true
  | .words xs => xs.any Prod.snd
  | _ => false

/-- A stack acts on the oldest decision it holds, once the near-memory commands that write its epoch granules have completed,
the previous decision is settled, and the loader position is written. An error in its epoch table that the code cannot correct is
fatal (R255, R256, R392, R494). -/
def execStackDecisionAct (x : StackAct) (s : State) : Host.Outcome State Fault Refusal :=
  .next <|
    if !(s.fastOn && s.stack[x.k].serves) then s
    else if tableLost x.ecc then s.enterFault 0x04 0x22 x.k.val 0
    else if s.stack[x.k].table.unsettled.isEmpty && !s.positionDue x.k && !s.nmHolds x.k then s.actStack x.k
    else s

/-- A stack settles one record of a written granule. An error in its records that the code cannot correct is fatal (R256,
R494). -/
def execEpochSettle (x : StackAct) (s : State) : Host.Outcome State Fault Refusal :=
  .next <|
    if !(s.fastOn && s.stack[x.k].serves) then s
    else if tableLost x.ecc then s.enterFault 0x04 0x22 x.k.val 0
    else s.modStack x.k fun y => { y with table := { y.table with unsettled := y.table.unsettled.tail } }

/-! ### Error correction, sparing, refresh and temperature -/

/-- Clear INS_ECC (R279, R283). -/
def execInsClrCnt (k : StackId) (s : State) : Host.Outcome State Fault Refusal :=
  .next (s.modStack k fun x => { x with ue := 0, ce := 0 })

/-- The patrol scrub reads one line: a correction is counted, and a line that cannot be corrected is poisoned (R258 to
R262). Addresses that e names are those of the line. -/
def execInsScrubLine (k : StackId) (line : BitVec 30) (e : Ecc) (s : State) : Host.Outcome State Fault Refusal :=
  .next <|
    if !(s.fastOn && s.stack[k].serves && s.stack[k].scrubEn) then s
    else
      let l : Loc := .insole k line.toNat
      match e with
      | .corrected => s.wordError l false
      | .uncorrectable => s.wordError l true
      | .words xs => xs.foldl (fun s x => s.wordError l x.2) s
      | .symbols xs => xs.foldl (fun s x => s.lineError k line.toNat x.2) s
      | .clean => s

/-- A weak row moves to a spare row, or stays in service where its bank has none left; no data changes (R261). -/
def execRowSpare (k : StackId) (spareLeft : Bool) (s : State) : Host.Outcome State Fault Refusal :=
  .next (if s.fastOn && spareLeft then s.modStack k fun x => { x with spareRows := satAdd x.spareRows 1 } else s)

/-- A refresh changes no state that the part shows (R263). -/
def execStackRefresh (_k : StackId) (s : State) : Host.Outcome State Fault Refusal := .next s

/-- The lower bound of a throttle level in °C (R263). -/
def levelBound (l : Nat) : Nat :=
  match l with
  | 0 => 0 | 1 => 85 | 2 => 95 | _ => 100

/-- The level of a temperature (R263). -/
def levelOf (t : Nat) : Nat := if t < 85 then 0 else if t < 95 then 1 else if t < 100 then 2 else 3

/-- The level held at a temperature: it rises with the bounds and falls 2 °C below them (R263). -/
def nextLevel (cur t : Nat) : Nat :=
  let fall := fun (l : Nat) => if l > levelOf t && t + 2 ≤ levelBound l then l - 1 else l
  if levelOf t ≥ cur then levelOf t else fall (fall (fall cur))

/-- A stack's hottest die has a temperature: its level follows, and entry to level 3 raises its interrupt and a health
event (R263, R423). -/
def State.setTemp (s : State) (k : StackId) (t : Byte) : State :=
  let old := s.stack[k].throttle.toNat
  let new := nextLevel old t.toNat
  let s := s.modStack k fun x => { x with temp := t, throttle := BitVec.ofNat 3 new }
  if new = 3 && old ≠ 3 then (s.irq 22).event 0x04 0x03 1 .ok 1 k.val (t.zeroExtend 64) else s

/-- A stack's temperature crosses a bound (R263). -/
def execStackThrottleChange (k : StackId) (temp : BitVec 8) (s : State) : Host.Outcome State Fault Refusal :=
  .next (s.setTemp k temp)

/-- A recalibration of a channel changes no state that the part shows (R496). -/
def execStackChannelRecal (_k : StackId) (_ch : Fin 16) (s : State) : Host.Outcome State Fault Refusal := .next s

/-! ### The stack copies of key and epoch -/

/-- Whether a stack's copies may be written: no core RUNNING or WAITING, no command queued or running there (R285). -/
def State.copyQuiet (s : State) (k : StackId) : Bool := !s.anyBusy && s.stack[k].queue.isEmpty

/-- Write a stack's copy of the key (R285). -/
def execInsSrkeyWrite (k : StackId) (v : Word) (s : State) : Host.Outcome State Fault Refusal :=
  .next (if s.copyQuiet k then s.modStack k fun x => { x with srkey := v } else s)

/-- Write a stack's copy of the epoch (R285). -/
def execInsSrepochWrite (k : StackId) (v : BitVec 32) (s : State) : Host.Outcome State Fault Refusal :=
  .next (if s.copyQuiet k then s.modStack k fun x => { x with srepoch := v } else s)

end Sys2Proof.Machine
end

