-- ==== Sys2Proof/Machine/ClockPower.lean ====
section
/-! DEFINITION. Clocks, power, gating, freeze, start-up and its resets, and the trips (R452, R462 to R482, R494, R510 to
R514). -/

namespace Sys2Proof.Machine

/-! ### Jobs and frequencies -/

/-- Enter ACTIVE from JOINED (R467). -/
def execClkJobEnter (s : State) : Host.Outcome State Fault Refusal :=
  .next { s with clk := if s.clk.state == .joined then { s.clk with state := .active, jobStatus := .ok }
                        else { s.clk with jobStatus := .busy } }

/-- Leave ACTIVE for JOINED with no core RUNNING or WAITING (R467). -/
def execClkJobLeave (s : State) : Host.Outcome State Fault Refusal :=
  .next { s with clk := if s.clk.state == .active && !s.anyBusy then { s.clk with state := .joined, jobStatus := .ok }
                        else { s.clk with jobStatus := .busy } }

/-- Request frequencies; a value outside its range acts as the nearest bound (R463, R478). -/
def execClkFreqWrite (cclk : BitVec 8) (aclk : BitVec 5) (s : State) : Host.Outcome State Fault Refusal :=
  .next { s with clk := { s.clk with cclk := cclk, aclk := aclk } }

/-- Whether a limit of R452 holds: the die's, until it is below 98 °C, or 10 ms above the power limit. -/
def Cobbler.limitHolds (c : Cobbler) : Bool := c.limiting || c.powerOver ≥ 10

/-- Each millisecond Cobbler lowers both limits by one while a limit holds, and raises them once it has cleared (R463). -/
def execClockLimitStep (s : State) : Host.Outcome State Fault Refusal :=
  .next <|
    if !s.firmwareUp then s
    else
      let k := s.clk
      let step := fun (x lo hi : Nat) => if s.cbl.limitHolds then max lo (x - 1) else min hi (x + 1)
      { s with clk := { k with aclkLim := BitVec.ofNat 5 (step k.aclkLim.toNat 8 16)
                               cclkLim := BitVec.ofNat 8 (step k.cclkLim.toNat 16 32) } }

/-! ### The time counter -/

/-- Set the integer part and clear the fraction (R465). -/
def execClkTimeWrite (v : Word) (s : State) : Host.Outcome State Fault Refusal :=
  .next { s with clk := { s.clk with time := v.zeroExtend 96 <<< 32 } }

/-- Add a signed number of ns in one step (R465). -/
def execClkTstepWrite (v : Word) (s : State) : Host.Outcome State Fault Refusal :=
  .next { s with clk := { s.clk with time := s.clk.time + (v.zeroExtend 96 <<< 32) } }

/-! ### Gating (R468, R479) -/

/-- The gating policy of a cluster: 3 is reserved and acts as 1 (R479). -/
def policyOf (p : Byte) (c : Cluster) : Nat :=
  let x := p.toNat / 4 ^ c.val % 4
  if x = 3 then 1 else x

/-- The cores of a cluster. -/
def clusterCores (c : Cluster) : List Core := (List.range 4).map fun i => Fin.ofNat 16 (4 * c.val + i)

/-- Whether a cluster is idle: no core RUNNING or WAITING, none with a stream, command or collective outstanding (R468).
That this has held for 10 µs is the event's. -/
def State.clusterIdle (s : State) (c : Cluster) : Bool :=
  (clusterCores c).all fun n =>
    let k := s.core n
    !k.busy && k.allIdle && k.tags.isEmpty && k.phase == .service && !s.coll.active.any fun a => a.core == n

/-- Set the gating policy of every cluster: it applies at the next idle entry, and 0 wakes a gated cluster (R468, R479). -/
def execClkClupolWrite (v : BitVec 8) (s : State) : Host.Outcome State Fault Refusal :=
  .next <|
    let s := { s with clk := { s.clk with policy := v } }
    forN 4 (fun i s =>
      let c : Cluster := Fin.ofNat 4 i
      if policyOf v c = 0 then s.wake c else s) s

/-- A cluster that has been idle for 10 µs stops its clocks under policy 1 or 2 (R468). -/
def execClusterClockGate (c : Cluster) (s : State) : Host.Outcome State Fault Refusal :=
  .next <|
    if s.fastOn && s.clk.gate[c] == .on && policyOf s.clk.policy c ≠ 0 && s.clusterIdle c then
      { s with clk := { s.clk with gate := vput s.clk.gate c .clockGated, policyOn := s.clk.policy } }
    else s

/-- What a powered-off core loses holds free values: scalar, vector, predicate and mask registers, semaphores, rings,
tile banks and heel; scratch and registers are in retention (R468). -/
def CoreArch.lost (a : CoreArch) (i : Nat) : CoreArch :=
  let w := fun (j : Nat) => Config.free (i + j)
  { a with
    s := Vector.ofFn fun j => w j.val
    p := Vector.ofFn fun j => bitOf (w (64 + j.val)) 0
    m := Vector.ofFn fun j => BitVec.ofNat 256 ((w (72 + 4 * j.val)).toNat + (w (73 + 4 * j.val)).toNat * 2 ^ 64 +
      (w (74 + 4 * j.val)).toNat * 2 ^ 128 + (w (75 + 4 * j.val)).toNat * 2 ^ 192)
    sem := Vector.ofFn fun j => { count := (w (104 + j.val)).truncate 16
                                  status := (Status.ofCode ((w (104 + j.val)).toNat / 2 ^ 16 % 256)).getD .ok }
    ring := Vector.ofFn fun j => { Ring.reset j.val with
      base := (w (168 + j.val)).truncate 11, nslots := ((w (168 + j.val)) >>> 11).truncate 5
      head := (w (168 + j.val)).toNat / 2 ^ 16 % 16, tail := (w (168 + j.val)).toNat / 2 ^ 20 % 16 }
    bank := Vector.ofFn fun j => { Bank.reset with
      loaded := bitOf (w (184 + j.val)) 0
      elems := freeTable 0 (fun x => x.truncate 16) (i + 1000 + 262144 * j.val) 262144
      scales := freeTable 0 freeByte (i + 1300000 + 16384 * j.val) 16384 }
    v := freeTable 0 (fun x => x.truncate 32) (i + 600000) 8192
    heel := freeTable 0 freeByte (i + 700000) 524288 }

/-- Free values a lost core may take. -/
def lostDraws : Nat := 2 ^ 21

/-- A clock-gated cluster under policy 2 is powered off after 1 ms more (R468). -/
def execClusterPowerGate (c : Cluster) (s : State) : Host.Outcome State Fault Refusal :=
  .next <|
    if s.fastOn && s.clk.gate[c] == .clockGated && policyOf s.clk.policyOn c = 2 then
      let s := { s with clk := { s.clk with gate := vput s.clk.gate c .powerGated } }
      (clusterCores c).foldl (fun s n =>
        let (i, s) := s.freshN lostDraws
        s.modArch n fun a => a.lost i) s
    else s

/-- A launch, or an access to a core's registers or scratch, wakes a gated cluster (R468). -/
def execClusterWake (c : Cluster) (s : State) : Host.Outcome State Fault Refusal :=
  .next (if s.fastOn then s.wake c else s)

/-- A wake ends: the cluster is on (R468). -/
def execClusterWakeComplete (c : Cluster) (s : State) : Host.Outcome State Fault Refusal :=
  .next (if s.fastOn && s.clk.gate[c] == .waking then { s with clk := { s.clk with gate := vput s.clk.gate c .on } } else s)

/-! ### Loss of clocks -/

/-- A fatal fault of the whole part (R466, R494). -/
def State.fatal (s : State) (src low : Nat) (data : Word) : State := s.enterFault src low partUnit data

/-- RREF is lost: the counter returns to AOCLK, the PLLs lose their reference, and after start-up step 5 the part enters
FAULT (R465, R494). -/
def execRrefLoss (s : State) : Host.Outcome State Fault Refusal :=
  .next <|
    let s := if s.clk.lock then s.fatal 0x02 0x01 0 else s
    { s with clk := { s.clk with rref := false, locked := false, lock := false } }

/-- A fast PLL loses lock after start-up step 5: FAULT (R494). -/
def execPllLockLoss (s : State) : Host.Outcome State Fault Refusal :=
  .next <|
    if !s.clk.lock then s
    else
      let s := s.fatal 0x02 0x02 0
      { s with clk := { s.clk with lock := false } }

/-! ### Freeze (R472 to R474) -/

/-- The runtime drives FRZ_N low (R472, R481). -/
def execAwlFreezeWrite (s : State) : Host.Outcome State Fault Refusal := .next (s.driveFreeze 1 0)

/-- After 10 µs FRZ_N is released and rises (R472). -/
def execFrzNRelease (s : State) : Host.Outcome State Fault Refusal :=
  .next { s with clk := { s.clk with frzDrive := false, frzN := true } }

/-- The part freezes: the counter and the trigger are recorded, and every fast clock stops with the state held (R473,
R474, R482). A transmission in progress is cut off. -/
def State.freezeNow (s : State) : State :=
  let s := s.event 0x09 0x01 1 .ok 0 partUnit s.now
  let a := { s.awl with frzTime := s.now, frzCause := if s.clk.frzDrive then s.awl.frzBy else 0
                        frzUnit := if s.clk.frzDrive then s.awl.frzUnit else 0 }
  { s with awl := a, clk := { s.clk with prev := s.clk.state, state := .frozen } }

/-- FRZ_N is seen low: the part freezes from BOOT, READY, JOINED, ACTIVE and FENCED; otherwise the low is ignored and
recorded (R472). -/
def execFrzNLow (s : State) : Host.Outcome State Fault Refusal :=
  .next <|
    let s := { s with clk := { s.clk with frzN := false } }
    let seen := match s.clk.state with
      | .boot => true | .ready => true | .joined => true | .active => true | .fenced => true | _ => false
    if s.clk.state == .off then s
    else if seen && !s.clk.dieReset then s.freezeNow
    else s.event 0x09 0x02 0 .ok 0 partUnit 0

/-! ### Resets above the units (R470, R510, R513) -/

/-- A die reset: every unit outside the always-on domain at its reset values; Cobbler with its ring, the measurement
registers, the time counter and its registers, AWL_FRZTIME, fuses and pins stay. The generation is read again (R436,
R470). Start-up is due at step 6, or at step 4 where a stage, a PLL or RREF is missing or THERMTRIP_N is low (R471). -/
def State.resetDie (s : State) : State :=
  let r := State.reset
  let g := s.cbl.genInUse
  let cbl := if g = s.cbl.genForce then s.cbl else { s.cbl.extendGen g with genForce := g }
  let warm := s.clk.stages && s.clk.lock && s.clk.rref && s.clk.thermtripN
  let k := s.clk
  let clk : Clocks := { r.clk with
    state := if warm then .boot else .standby
    time := k.time, adj := k.adj, locked := k.locked, upStep := if warm then 6 else 4
    stages := k.stages && warm, lock := k.lock && warm, rref := k.rref, dieReset := k.dieReset, frzN := k.frzN
    frzDrive := k.frzDrive, rstN := k.rstN, faultN := !cbl.heldReset, alertN := k.alertN, thermtripN := k.thermtripN
    contentsLost := true }
  let awl : Awl := { r.awl with
    frzTime := s.awl.frzTime, held := s.awl.held, lost := s.awl.lost, health := s.awl.health
    healthNew := s.awl.healthNew }
  ({ r with cbl := cbl, clk := clk, awl := awl, ctx := { r.ctx with hostGib := cbl.hostGib }, freeCtr := s.freeCtr
            pending := s.pending }).skippedBlocks

/-- Everything at its power-on value but the fuses and the SPI NOR: image slots, boot record, certificates and mirror
(R470). -/
def State.resetPower (s : State) (step : Nat) : State :=
  let r := State.reset
  let c := s.cbl
  { r with cbl := { r.cbl with fuses := c.fuses, boot := c.boot, slotA := c.slotA, slotB := c.slotB, certs := c.certs
                               mirror := c.mirror }
           clk := { r.clk with upStep := step }, freeCtr := s.freeCtr, pending := s.pending }

/-- V33 rises through 2.97 V: power-on reset, and start-up is due at step 1 (R470, R510). -/
def execPowerOnReset (s : State) : Host.Outcome State Fault Refusal := .next (s.resetPower 1)

/-- V33 is lost: the part is OFF, and nothing is due until the rail rises (R466, R510). -/
def execV33Loss (s : State) : Host.Outcome State Fault Refusal := .next (s.resetPower 0)

/-- RST_N goes low: the die is held in reset (R470, R513). -/
def execRstNAssert (s : State) : Host.Outcome State Fault Refusal :=
  .next <|
    let s := { s with clk := { s.clk with rstN := false } }
    if s.clk.state == .off then s else ({ s with clk := { s.clk with dieReset := true } }).resetDie

/-- FRZ_N low as a part enters BOOT freezes it (R472, R513). -/
def State.enterBoot (s : State) : State :=
  let s := { s with clk := { s.clk with state := .boot } }
  if s.clk.frzN then s else s.freezeNow

/-- RST_N rises: the die reset completes, and start-up is due again (R471, R513). -/
def execRstNRelease (s : State) : Host.Outcome State Fault Refusal :=
  .next <|
    let s := { s with clk := { s.clk with rstN := true } }
    if !s.clk.dieReset then s
    else
      let s := { s with clk := { s.clk with dieReset := false } }
      if s.clk.state == .boot then s.enterBoot else s

/-! ### Start-up (R471) -/

/-- Steps 1 to 3: the fuses and the boot record are read, and Cobbler's firmware starts: STANDBY (R436, R441, R471). -/
def State.upCold (s : State) : State :=
  let c := { s.cbl with genForce := s.cbl.genInUse }
  let s := { s with cbl := c, ctx := { s.ctx with hostGib := c.hostGib } }
  let s := s.startCobbler
  { s with clk := { s.clk with state := .standby, upStep := 4 } }

/-- Step 4: the rails and RREF are checked and the on-package stages sequenced: BOOT. Where one is absent the part stays
STANDBY. A supply or EEPROM that does not answer is recorded (R471, R510, R514). -/
def State.upPower (s : State) (env : StartEnv) : State :=
  if !s.firmwareUp || !s.clk.target then s
  else if !(env.rails && env.rref) then s.event 0x02 0x04 2 .ok 0 partUnit 4
  else
    let s := if env.supply then s else s.event 0x02 0x05 1 .ok 0 partUnit 0x40
    let s := if env.eeprom then s else s.event 0x02 0x06 1 .ok 0 partUnit 0x50
    ({ s with clk := { s.clk with stages := true, upStep := 5 } }).enterBoot

/-- Step 5: every PLL locks, and the time counter locks to RREF (R465, R471). -/
def State.upLock (s : State) : State :=
  { s with clk := { s.clk with lock := true, rref := true, locked := true, upStep := 6 } }

/-- The Welt and every core scratch are zero with valid code, and so are the stacks' lines (R471). -/
def State.zeroMemory (s : State) : State :=
  { s with welt := { s.welt with mem := [], poison := [] }
           cores := s.cores.map fun c => { c with arch := { c.arch with scratch := [], scratchPoison := [] } }
           stack := s.stack.map Stack.cleared, clk := { s.clk with contentsLost := false } }

/-- Steps 6 to 9: memory is zero, the components load, the stacks train, and the harts are released: READY. A component
that fails its check leaves the part in BOOT; a stack that fails training takes it to FAULT (R441, R471, R494). -/
def State.upUnits (s : State) (env : StartEnv) : State :=
  if !s.firmwareUp then s
  else
    let s := s.zeroMemory
    let s := { s with cbl := { s.cbl with unitGen := BitVec.ofNat 16 (s.cbl.image.nat 2 2) }
                      clk := { s.clk with unitsHeld := [], upStep := 0 } }
    let s := ([2, 3, 4, 6] : List Nat).foldl (fun s k => s.loadComp k 1) s
    if !s.clk.unitsHeld.isEmpty then s.event 0x01 0x04 2 .ok 0 partUnit 7
    else
      match env.failed with
      | k :: _ => s.enterFault 0x04 0x08 k.val 8
      | [] =>
        let s := s.handoff
        if !s.clk.unitsHeld.isEmpty then s.event 0x01 0x04 2 .ok 0 partUnit 9
        else ({ s with clk := { s.clk with state := .ready, unitsUp := true } }).checkJoined

/-- Start-up from the step that is due, as far as it comes (R471). -/
def State.startUp (s : State) (env : StartEnv) : State :=
  if s.clk.dieReset then s
  else
    let s := if s.clk.state == .off && s.clk.upStep == 1 then s.upCold else s
    let s := if s.clk.state == .standby && s.clk.upStep == 4 then s.upPower env else s
    let s := if s.clk.state == .boot && s.clk.upStep == 5 then s.upLock else s
    if s.clk.state == .boot && s.clk.upStep == 6 then s.upUnits env else s

/-- The part runs the start-up steps that are due (R471). -/
def execStartUpSequence (env : StartEnv) (s : State) : Host.Outcome State Fault Refusal := .next (s.startUp env)

/-- Each second, step 4 is tried again while RREF or a rail is absent (R471, R510). -/
def execStartUpRetry (env : StartEnv) (s : State) : Host.Outcome State Fault Refusal :=
  .next (if s.clk.state == .standby && s.clk.upStep == 4 then s.startUp env else s)

/-! ### Sensors and trips (R452, R510, R513) -/

/-- The rails' trip turns the on-package stages off, and with them every fast clock (R510). -/
def State.stagesOff (s : State) : State := { s with clk := { s.clk with stages := false, lock := false } }

/-- V12 or V12A outside 8 % of nominal while the part runs: a trip, and the stages turn off (R452, R510). -/
def execVoltageComparatorTrip (r : Rail) (s : State) : Host.Outcome State Fault Refusal :=
  .next <|
    if !s.clk.stages then s
    else (s.fatal 0x02 0x10 (if r == .v12 then 0 else 1)).stagesOff

/-- The hottest die diode. -/
def dieMax (x : Sensors) : Nat := x.diodes.foldl max 0

/-- Each sensor of a sample, diodes, stacks, voltage monitors, power and regulator stages in this order: its value, whether it
warns, and whether it is not yet back 2 °C, or 1 % of nominal, inside its warning (R452). -/
def sensorList (x : Sensors) (limit : Nat) : List (Nat × Bool × Bool) :=
  let hot := fun (t : Nat) => (t, decide (t ≥ 95), decide (t > 93))
  x.diodes.map hot ++ x.stack.map hot ++ (x.volts.map fun v => (v, decide (v > 30), decide (v > 20))) ++
    [(x.power, decide (x.power > limit), decide (x.power * 100 > limit * 99))] ++
    x.stages.map fun r => (b2n r.1, r.1, r.1)

/-- The sensors whose warning holds after a sample, given those whose warning held (R452). -/
def sensorsWarned (x : Sensors) (limit : Nat) (held : List Nat) : List Nat :=
  let xs := sensorList x limit
  (List.range xs.length).filter fun i =>
    match xs[i]? with
    | some (_, starts, stays) => starts || (stays && held.contains i)
    | none => false

/-- The trip a sample shows: two samples a millisecond apart at 110 °C, a stack at 105 °C, a voltage outside 8 %, a
regulator's fault bits (R452). -/
def sensorTrips (x : Sensors) (hot : Nat) : Bool :=
  hot ≥ 2 || x.stack.any (· ≥ 105) || x.volts.any (· > 80) || x.stages.any Prod.snd

/-- The message of a notice is not stated; it waits for the mailbox (R456, R457). -/
def State.postNotice (s : State) : State :=
  let (i, s) := s.fresh
  { s with cbl := { s.cbl with notices := s.cbl.notices ++ [(Config.free i).truncate 16] } }

/-- The reply buffer's 32 registers from its bytes (R461). -/
def mailWords (bs : List Byte) : Vector Word 32 := Vector.ofFn fun i => BitVec.ofNat 64 (natAt bs (8 * i.val) 8)

/-- A message is placed in the reply buffer: source 21 (R423, R454). -/
def State.placeMail (s : State) (code tag : BitVec 16) (len : Nat) (st : Status) (detail : Byte) (body : List Byte) :
    State :=
  let bs := leBytes 2 code.toNat ++ leBytes 2 tag.toNat ++ leBytes 4 len ++ leBytes 1 st.code ++ [detail] ++
    List.replicate 6 0 ++ body
  ({ s with cbl := { s.cbl with mbRsp := mailWords bs, mbState := .reply, rspStatus := st } }).irq 21

/-- A notice that waits is placed while the mailbox is idle: tag 0xFFFF (R457). -/
def State.placeNotice (s : State) : State :=
  match s.cbl.notices with
  | [] => s
  | m :: rest =>
    if s.cblUp && s.cbl.mbState == .idle then
      ({ s with cbl := { s.cbl with notices := rest } }).placeMail m 0xFFFF 0 .ok 0 []
    else s

/-- Cobbler samples its sensors and applies the warnings, limits and trips; each warning that begins is recorded and gives a
notice (R452, R456). The thermal trip needs no firmware (R513). -/
def execSensorSample (x : Sensors) (s : State) : Host.Outcome State Fault Refusal :=
  .next <|
    if s.clk.state == .off then s
    else
      let hot := if dieMax x ≥ 110 then s.cbl.dieHot + 1 else 0
      let s := { s with cbl := { s.cbl with dieHot := hot } }
      let s := if hot ≥ 2 then { s with clk := { s.clk with thermtripN := false } } else s
      if !s.firmwareUp then (if hot ≥ 2 then s.fatal 0x02 0x11 (BitVec.ofNat 64 (dieMax x)) else s)
      else
        let c := s.cbl
        let limit := c.powerLimit
        let warned := sensorsWarned x limit c.warned
        let new := warned.filter fun i => !c.warned.contains i
        let c := { c with sensors := x, warned := warned
                          limiting := dieMax x ≥ 100 || (c.limiting && dieMax x ≥ 98)
                          powerOver := if x.power > limit then c.powerOver + 1 else 0 }
        let s := { s with cbl := c, clk := { s.clk with alertN := warned.isEmpty } }
        let s := if s.fastOn then
            forN 24 (fun i s => s.setTemp (Fin.ofNat 24 i) (BitVec.ofNat 8 (x.stack.getD i 0))) s
          else s
        let s := new.foldl (fun s i =>
          (s.event 0x02 0x12 1 .ok 0 i (BitVec.ofNat 64 (((sensorList x limit)[i]?).map Prod.fst |>.getD 0))).postNotice.placeNotice) s
        if sensorTrips x hot then s.fatal 0x02 0x11 (BitVec.ofNat 64 (dieMax x)) else s

end Sys2Proof.Machine
end

