-- ==== Sys2Proof/Machine/Units.lean ====
section
/-! DEFINITION. Unit resets under their handshake (R456, R483 to R488, R494), lockstep mismatches and Cobbler's start
(R433, R441), and the self-tests (R495). -/

namespace Sys2Proof.Machine

/-! ### The handshake -/

/-- Cobbler's Refuse: doorbells are refused and its sessions close (R485). -/
def State.refuseCobbler (s : State) : State :=
  if s.cbl.phase != .service then s
  else { s with cbl := { s.cbl with phase := .settling, sessions := Vector.replicate 4 Session.reset } }

/-- A die reset requested by a command; the part enters BOOT where the stages are on (R470, R471). -/
def State.commandDie (s : State) : State :=
  let s := s.resetDie
  if s.clk.state == .boot then s.enterBoot else s

/-- Begin the reset of a unit: phase 1 of its handshake; a link retrains, and the die resets at once (R470, R483, R485). -/
def State.refuse (s : State) (u : ResetUnit) : State :=
  match u with
  | .core n => s.refuseCore n
  | .cluster c => s.forCluster c State.refuseCore
  | .stack k => s.beginStackReset k false
  | .link p => s.portDown p 1
  | .eth p => s.refuseEth p
  | .ctx => s.refuseCtx
  | .cobbler => s.refuseCobbler
  | .die => s.commandDie

/-- Settle has ended: the unit resets and its epoch advances; a cluster's gated clocks have come back first (R483, R485). -/
def State.settled (s : State) (u : ResetUnit) : State :=
  match u with
  | .core n => s.resetCore n
  | .cluster c =>
    let s := s.forCluster c State.resetCore
    { s with clk := { s.clk with gate := vput s.clk.gate c .on } }
  | .stack k => s.stackSettled k
  | .link _ => s
  | .eth p => s.resetEth p
  | .ctx => s.resetCtx
  | .cobbler => if s.cbl.phase == .settling then s.resetCobbler else s
  | .die => s

/-- Cobbler starts, and a notice that waits is placed (R441, R457). -/
def State.bootCobbler (s : State) : State :=
  if s.cbl.phase == .returning && !s.cbl.heldReset && s.clk.state != .off then s.startCobbler.placeNotice else s

/-- The unit returns; a stack retrains, and its own command ends its reset (R277, R483, R485). -/
def State.returned (s : State) (u : ResetUnit) : State :=
  match u with
  | .core n => s.returnCore n
  | .cluster c => s.forCluster c State.returnCore
  | .stack k => s.stackTrains k
  | .link _ => s
  | .eth p => s.returnEth p
  | .ctx => s.returnCtx
  | .cobbler => s.bootCobbler
  | .die => s

/-- Whether the clocks a unit runs on are there: Cobbler's are always on (R432, R462). -/
def State.clocked (s : State) (u : ResetUnit) : Bool := u == .cobbler || u == .die || s.fastOn

/-- Work that a resetting unit accepted has ended (R483). -/
def execUnitResetSettleEnd (u : ResetUnit) (s : State) : Host.Outcome State Fault Refusal :=
  .next (if s.clocked u then s.settled u else s)

/-- The proxy of a reset unit is withdrawn (R483). -/
def execUnitResetReturn (u : ResetUnit) (s : State) : Host.Outcome State Fault Refusal :=
  .next (if s.clocked u then s.returned u else s)

/-- Whether a unit is in its Settle phase. -/
def State.settling (s : State) (u : ResetUnit) : Bool :=
  match u with
  | .core n => (s.core n).phase == .settling
  | .cluster c => (clusterCores c).any fun n => (s.core n).phase == .settling
  | .stack k => s.stack[k].state == .quiescing
  | .link _ => false
  | .eth p => s.ing.port[p].phase == .settling
  | .ctx => s.ctx.phase == .settling
  | .cobbler => s.cbl.phase == .settling
  | .die => false

/-- The number of a unit in an event record (R449). -/
def unitNo (u : ResetUnit) : Nat :=
  match u with
  | .core n => n.val
  | .cluster c => c.val
  | .stack k => k.val
  | .link p => p.val
  | .eth p => p.val
  | _ => partUnit

/-- The source of a unit's records (R450). -/
def unitSource (u : ResetUnit) : Nat :=
  match u with
  | .core _ => 6
  | .cluster _ => 6
  | .stack _ => 4
  | .link _ => 3
  | .eth _ => 7
  | _ => 1

/-- A Settle has not ended 1 ms after Refuse: FAULT (R494). -/
def execSettleTimeout (u : ResetUnit) (s : State) : Host.Outcome State Fault Refusal :=
  .next (if s.clocked u && s.settling u then s.enterFault (unitSource u) 0x20 (unitNo u) 0 else s)

/-- A stack has not returned 50 ms after its reset: FAULT (R494). -/
def execStackReturnTimeout (k : StackId) (s : State) : Host.Outcome State Fault Refusal :=
  .next <|
    if s.fastOn && (s.stack[k].state == .resetting || s.stack[k].state == .training) then
      s.enterFault 0x04 0x21 k.val 0
    else s

/-! ### Lockstep and boot -/

/-- Nanoseconds in an hour. -/
def hourNs : Nat := 3600000000000

/-- The cores' outputs differ: Cobbler resets, and a record follows; a third mismatch within an hour holds it in reset with
FAULT_N low (R433). -/
def execCobblerLockstepMismatch (s : State) : Host.Outcome State Fault Refusal :=
  .next <|
    if s.clk.state == .off || s.cbl.heldReset then s
    else
      let recent := s.cbl.mismatchTimes.filter fun t => (s.now - t).toNat ≤ hourNs
      let hold := recent.length ≥ 2
      let s := s.resetCobbler
      let s := { s with cbl := { s.cbl with mismatchTimes := recent ++ [s.now], heldReset := hold }
                        clk := { s.clk with faultN := s.clk.faultN && !hold } }
      s.event 0x01 0x01 2 .ok intrinsic partUnit 0

/-- The boot ROM runs (R441). -/
def execCobblerBoot (s : State) : Host.Outcome State Fault Refusal := .next s.bootCobbler

/-! ### Self-test (R495) -/

/-- Whether a test leaves its unit's contents undefined. -/
def testDestroys (t : SelfTest) : Bool :=
  match t with
  | .fuses => false
  | .sensors => false
  | .eyeScan _ => false
  | _ => true

/-- The unit a failed test names: its source and number. -/
def testUnit (t : SelfTest) : Nat × Nat :=
  match t with
  | .fuses => (0x0A, partUnit)
  | .sensors => (0x02, partUnit)
  | .coreScan n => (6, n.val)
  | .coreMarch n => (6, n.val)
  | .weltMarch => (5, partUnit)
  | .stackMarch k => (4, k.val)
  | .laneLoop p => (3, p.val)
  | .eyeScan p => (3, p.val)
  | .ethLoop p => (7, p.val)

/-- A core is quiesced, tested and reset; its scratch is left undefined (R483, R495). -/
def State.testCore (s : State) (n : Core) : State :=
  let s := (s.refuseCore n).resetCore n
  let (i, s) := s.freshN scratchSize
  (s.modArch n fun a => { a with scratch := freeTable 0 freeByte i scratchSize, scratchPoison := [] }).returnCore n

/-- A stack is quiesced, tested and reset; its lines are left undefined. -/
def State.testStack (s : State) (k : StackId) : State :=
  let s := (s.beginStackReset k false).stackSettled k
  let (i, s) := s.freshN (2 ^ 36)
  (s.modStack k fun x => { x with dram := freeTable 0 freeByte i (2 ^ 36), poison := [] }).stackBack k

/-- The Welt's program area is left undefined. -/
def State.testWelt (s : State) : State :=
  let n := s.welt.areaOn.toNat * 2 ^ 18
  let (i, s) := s.freshN n
  { s with welt := { s.welt with mem := freeTable 0 freeByte i n, poison := [] } }

/-- What a destructive test does to its unit. -/
def State.runTest (s : State) (t : SelfTest) : State :=
  match t with
  | .fuses => s
  | .sensors => s
  | .eyeScan _ => s
  | .coreScan n => s.testCore n
  | .coreMarch n => s.testCore n
  | .weltMarch => s.testWelt
  | .stackMarch k => s.testStack k
  | .laneLoop p => s.portDown p 1
  | .ethLoop p => ((s.refuseEth p).resetEth p).returnEth p

/-- Whether a test is refused with BUSY: a destructive one while the part is ACTIVE, the Welt march unless the part is
quiesced. -/
def State.testBusy (s : State) (t : SelfTest) : Bool :=
  (testDestroys t && s.isActive) ||
    (t == .weltMarch && (s.anyBusy || s.welt.use.toList.any fun u => u.used != 0))

end Sys2Proof.Machine
end

