-- ==== Sys2Proof/Machine/Manage.lean ====
section
/-! DEFINITION. Cobbler's log, its management protocol and the mailbox (R437, R443 to R461, R469, R472, R495). -/

namespace Sys2Proof.Machine

/-! ### The log (R21, R449, R451) -/

/-- The bytes of an event record (R449). -/
def EvRec.bytes (r : EvRec) : List Byte :=
  let b := leBytes 8 r.seq ++ leBytes 8 r.time.toNat ++ leBytes 2 r.code.toNat ++ [r.severity] ++
    leBytes 1 r.status.code ++ [r.cls, 0] ++ leBytes 2 r.dev.toNat ++ leBytes 32 r.data.toNat ++ leBytes 4 r.count.toNat
  b ++ leBytes 4 (crc32c b).toNat

/-- One record for each health count that has changed, with its increment (R451). -/
def State.flushHealth (s : State) : State :=
  let s := s.awl.healthNew.foldl (fun (s : State) x =>
    s.pushRec { seq := 0, time := s.now, code := BitVec.ofNat 16 (x.1 / 2 ^ 24 * 256), severity := 1, status := .ok
                cls := BitVec.ofNat 8 (x.1 / 2 ^ 16 % 256), dev := BitVec.ofNat 16 (x.1 % 2 ^ 16), data := 0
                count := BitVec.ofNat 32 x.2 }) s
  { s with awl := { s.awl with healthNew := [] } }

/-- Each second Cobbler writes the changed health counts; while it resets, the Awl holds them (R21, R451). -/
def execHealthRecordFlush (s : State) : Host.Outcome State Fault Refusal :=
  .next (if s.firmwareUp then s.flushHealth else s)

/-- The mirror holds 64 sectors of 1,024 records; when full, its oldest sector is erased (R451). -/
def mirrored (old new : List EvRec) : List EvRec :=
  new.foldl (fun m r => (if m.length ≥ 65536 then m.drop 1024 else m) ++ [r]) old

/-- The records not yet mirrored are written to the mirror (R451). -/
def execEventMirrorWrite (s : State) : Host.Outcome State Fault Refusal :=
  .next <|
    if s.cblUp then { s with cbl := { s.cbl with mirror := mirrored s.cbl.mirror s.cbl.unmirrored, unmirrored := [] } }
    else s

/-- The record with the count of those that the Awl could not hold (R21). -/
def State.lostRec (s : State) : EvRec :=
  { seq := 0, time := s.now, code := 0x0903, severity := 1, status := .ok, cls := 0, dev := 0xFFFF, data := 0
    count := BitVec.ofNat 32 s.awl.lost }

/-- The oldest held record is delivered where the ring takes it, and after the last the count of the rest (R21). -/
def State.deliverOne (s : State) : State :=
  if !s.ringTakes then s
  else
    match s.awl.held with
    | r :: rest => { s with awl := { s.awl with held := rest } }.putRec r
    | [] => if s.awl.lost = 0 then s else { s with awl := { s.awl with lost := 0 } }.putRec s.lostRec

/-- The Awl delivers the records it held, in order, and one record with the count of those it could not hold, as far as the
ring takes them (R21). -/
def execAwlHeldRecordDelivery (s : State) : Host.Outcome State Fault Refusal :=
  .next (forN (s.awl.held.length + 1) (fun _ s => s.deliverOne) s)

/-! ### Sessions and replies (R453 to R458) -/

/-- A TLS client opens a session: class O where its certificate chains to the fused anchor, else class R. A client that
the handshake refuses, or a fifth session, opens none (R453). -/
def execMgmtSessionConnect (cert : List Byte) (s : State) : Host.Outcome State Fault Refusal :=
  .next <|
    if !s.cblUp then s
    else
      match Config.certClass (s.cbl.anchor.getD [] ++ cert), (List.finRange 4).find? fun i => !(s.cbl.sessions[i]).isOpen with
      | some o, some i =>
        { s with cbl := { s.cbl with
            sessions := vput s.cbl.sessions i { isOpen := true, operator := o && s.cbl.anchor.isSome } } }
      | _, _ => s

/-- Bytes of one piece (R458). -/
def pieceBytes : Nat := 240

/-- Piece k of a long reply is placed in the reply buffer (R458). -/
def State.placePiece (s : State) (r : Reply) (k : Nat) : State :=
  let s := s.placeMail r.code r.tag r.payload.length .ok (BitVec.ofNat 8 k) ((r.payload.drop (pieceBytes * k)).take pieceBytes)
  { s with cbl := { s.cbl with pieces := if r.payload.length ≤ pieceBytes * (k + 1) then none else some (r, k + 1) } }

/-- A reply leaves: to its session, or to the mailbox, whole, in pieces, or refused where it would need more than 16
(R454, R456, R458). -/
def State.sendReply (s : State) (c : Client) (r : Reply) : State :=
  match c with
  | .session i => { s with cbl := { s.cbl with replies := vput s.cbl.replies i (some r) } }
  | .mailbox =>
    if r.payload.length > 16 * pieceBytes then s.placeMail r.code r.tag 0 .aborted 0x82 []
    else if r.payload.length > pieceBytes then s.placePiece r 0
    else s.placeMail r.code r.tag r.payload.length r.status r.detail r.payload

/-- The request the mailbox holds: its command and tag (R454, R461). -/
def Cobbler.mailHead (c : Cobbler) : BitVec 16 × BitVec 16 :=
  (BitVec.ofNat 16 (bitsOf c.mbReq[0] 15 0), BitVec.ofNat 16 (bitsOf c.mbReq[0] 31 16))

/-- Whether a client can have a request now: an open session, or a mailbox that holds this one (R453, R457). -/
def State.asks (s : State) (c : Client) (code tag : BitVec 16) : Bool :=
  s.cblUp && (match c with
    | .session i => (s.cbl.sessions[i]).isOpen
    | .mailbox => s.cbl.mbState == .busy && s.cbl.mailHead == (code, tag))

/-- What a command answers: its status, detail and payload. -/
abbrev Answer := Status × Byte × List Byte

/-- A plain answer. -/
def answered (st : Status) : Answer := (st, 0, [])
/-- ABORTED with a detail. -/
def failed (detail : Byte) : Answer := (.aborted, detail, [])

/-- A command of a table entry (R455): beyond the client's class it completes with ABORTED, detail 0x81; in recovery all
but those that R442 names complete with BUSY; otherwise it runs. op: class O; mail: the mailbox accepts it. -/
def State.command (s : State) (c : Client) (tag code : BitVec 16) (op mail inRecovery : Bool)
    (run : State → State × Answer) : State :=
  if !s.asks c code tag then s
  else
    let allowed := match c with
      | .session i => !op || (s.cbl.sessions[i]).operator
      | .mailbox => mail
    let (s, st, detail, body) :=
      if !allowed then (s, failed 0x81)
      else if s.cbl.recovery && !inRecovery then (s, answered .busy)
      else run s
    s.sendReply c { code := code, tag := tag, status := st, detail := detail, payload := body }

/-- The codes of R455. -/
def knownCodes : List Nat :=
  [1, 2, 3, 4, 5, 6, 0x20, 0x21, 0x22, 0x23, 0x24, 0x25, 0x30, 0x40, 0x41, 0x50, 0x51, 0x52, 0x60, 0x61]

/-- Codes of class O (R455). -/
def operatorCodes : List Nat := [0x20, 0x21, 0x22, 0x23, 0x24, 0x25, 0x30, 0x40, 0x41, 0x50, 0x51, 0x52, 0x60]

/-- Codes the mailbox accepts (R455). -/
def mailCodes : List Nat := [1, 2, 4, 5, 6, 0x40, 0x41]

/-- An unknown, out-of-class or malformed request (R454). -/
def execMgmtUnknownCommand (c : Client) (code tag : BitVec 16) (s : State) : Host.Outcome State Fault Refusal :=
  let k := code.toNat
  let barred := match c with
    | .session i => operatorCodes.contains k && !(s.cbl.sessions[i]).operator
    | .mailbox => !mailCodes.contains k
  let detail : Byte := if !knownCodes.contains k then 0x80 else if barred then 0x81 else 0x83
  .next (if s.asks c code tag then s.sendReply c { code := code, tag := tag, status := .aborted, detail := detail, payload := [] }
         else s)

/-! ### Commands that read (R445, R455) -/

/-- The code of a part state (R466); OFF answers no command. -/
def PartState.code (p : PartState) : Nat :=
  match p with
  | .off => 2 | .standby => 1 | .boot => 2 | .ready => 3 | .joined => 4 | .active => 5 | .fenced => 6 | .frozen => 7
  | .fault => 8

/-- GET_INFO: the fields in the order R455 names them; their places are the model's. -/
def execGetInfo (c : Client) (tag : BitVec 16) (s : State) : Host.Outcome State Fault Refusal :=
  .next <| s.command c tag 0x0001 false true true fun s =>
    let k := s.cbl
    (s, .ok, 0, k.fuses.readN 0 19 ++ k.slotA.readN 2 3 ++ k.slotB.readN 2 3 ++ leBytes 1 k.arb ++ leBytes 1 k.genInUse ++
      leBytes 1 s.clk.state.code)

/-- Bytes 0 to 599 of the quote (R445). -/
def State.quoteBody (s : State) (nonce : List Byte) : List Byte :=
  let k := s.cbl
  leBytes 2 1 ++ leBytes 2 k.compat ++ leBytes 4 s.serialHash.toNat ++ leBytes 2 (k.image.nat 2 2) ++
    leBytes 1 (k.image.nat 4 1) ++ leBytes 1 k.arb ++ leBytes 1 k.genForce ++ leBytes 1 s.clk.state.code ++ leBytes 2 0 ++
    leBytes 8 s.now.toNat ++ padTo 64 nonce ++ (k.meas.toList.map digestBytes).flatten

/-- GET_QUOTE (R445). -/
def execGetQuote (c : Client) (tag : BitVec 16) (nonce : List Byte) (s : State) : Host.Outcome State Fault Refusal :=
  .next <| s.command c tag 0x0002 false true false fun s =>
    let body := s.quoteBody nonce
    (s, .ok, 0, body ++ padTo 512 (Config.attest body))

/-- GET_CERTS. -/
def execGetCerts (c : Client) (tag : BitVec 16) (s : State) : Host.Outcome State Fault Refusal :=
  .next <| s.command c tag 0x0003 false false false fun s => (s, .ok, 0, s.cbl.certs)

/-- READ_LOG: records from a number on, at most 1,024, or 60 over the mailbox. -/
def execReadLog (c : Client) (tag : BitVec 16) (seq : Nat) (s : State) : Host.Outcome State Fault Refusal :=
  .next <| s.command c tag 0x0004 false true true fun s =>
    let limit := if c == .mailbox then 60 else 1024
    let rs := ((s.cbl.mirror ++ s.cbl.unmirrored).filter fun r => r.seq ≥ seq).take limit
    (s, .ok, 0, (rs.map EvRec.bytes).flatten)

/-- READ_SENSORS: the latest sample; the places of its values are the model's. -/
def execReadSensors (c : Client) (tag : BitVec 16) (s : State) : Host.Outcome State Fault Refusal :=
  .next <| s.command c tag 0x0005 false true false fun s =>
    let x := s.cbl.sensors
    (s, .ok, 0, ((x.diodes ++ x.stack ++ x.volts ++ [x.power]).map fun t => leBytes 2 t).flatten ++
      x.stages.map fun r => BitVec.ofNat 8 (b2n r.1 + 2 * b2n r.2))

/-- READ_HEALTH: the counters by unit and cause class; the places of the values are the model's. -/
def execReadHealth (c : Client) (tag : BitVec 16) (s : State) : Host.Outcome State Fault Refusal :=
  .next <| s.command c tag 0x0006 false true false fun s =>
    (s, .ok, 0, (s.awl.health.map fun x => leBytes 4 x.1 ++ leBytes 4 x.2).flatten)

/-! ### Firmware and fuses (R437, R446, R447) -/

/-- Whether an update is open for another client (R446). -/
def State.updateBusy (s : State) (c : Client) : Bool := s.cbl.update.isSome && s.cbl.update != some c

/-- The slot that is not active. -/
def Cobbler.spare (c : Cobbler) : Bool := !c.record.activeB

/-- FW_WRITE (R446). -/
def execFwWrite (c : Client) (tag : BitVec 16) (offset : Nat) (data : List Byte) (s : State) :
    Host.Outcome State Fault Refusal :=
  .next <| s.command c tag 0x0020 true false true fun s =>
    if s.updateBusy c then (s, answered .busy)
    else if data.length = 0 || data.length > 65536 || offset + data.length > slotSize then (s, failed 0x83)
    else
      let k := { s.cbl with update := some c }
      let k := if k.spare then { k with slotB := k.slotB.writeN offset data }
        else { k with slotA := k.slotA.writeN offset data }
      ({ s with cbl := k }, answered .ok)

/-- FW_VERIFY (R440, R446). -/
def execFwVerify (c : Client) (tag : BitVec 16) (s : State) : Host.Outcome State Fault Refusal :=
  .next <| s.command c tag 0x0021 true false true fun s =>
    if s.updateBusy c then (s, answered .busy)
    else
      let d := s.cbl.verify (s.cbl.slot s.cbl.spare) false
      (s, if d = 0 then answered .ok else failed (BitVec.ofNat 8 d))

/-- FW_ACTIVATE: the verified slot is pending with 3 tries, and Cobbler resets; its notice is posted (R446, R456). -/
def execFwActivate (c : Client) (tag : BitVec 16) (s : State) : Host.Outcome State Fault Refusal :=
  .next <| s.command c tag 0x0022 true false true fun s =>
    if s.updateBusy c then (s, answered .busy)
    else
      let b := s.cbl.spare
      let d := s.cbl.verify (s.cbl.slot b) false
      if d = 0 then
        let k := s.cbl.setRecord fun r => { r with pending := some b, tries := 3 }
        (({ s with cbl := k }).resetCobbler.postNotice, answered .ok)
      else (s, failed (BitVec.ofNat 8 d))

/-- FW_COMMIT: the pending image that runs becomes active and the update closes (R446). Otherwise nothing changes, and
what status it completes with is open. -/
def execFwCommit (c : Client) (tag : BitVec 16) (s : State) : Host.Outcome State Fault Refusal :=
  .next <| s.command c tag 0x0023 true false false fun s =>
    if s.cbl.runningPending then
      let k := s.cbl.setRecord fun r => { r with activeB := s.cbl.runningB, pending := none, tries := 0 }
      ({ s with cbl := { k with runningPending := false, update := none } }, answered .ok)
    else
      let (i, s) := s.fresh
      (s, answered ((Status.ofCode ((Config.free i).toNat % 256)).getD .aborted))

/-- Blow the lowest unblown bits of n bytes of fuses until want of them are blown. -/
def Memory.blow (m : Memory) (a n want : Nat) : Memory :=
  (List.range (8 * n)).foldl (fun (m : Memory) i =>
    if m.ones a n < want then
      m.write (a + i / 8) (BitVec.ofNat 8 ((m.read (a + i / 8)).toNat ||| 2 ^ (i % 8)))
    else m) m

/-- FW_LOCK (R447). -/
def execFwLock (c : Client) (tag : BitVec 16) (s : State) : Host.Outcome State Fault Refusal :=
  .next <| s.command c tag 0x0024 true false false fun s =>
    let k := s.cbl
    let svn := k.image.nat 4 1
    if k.runningPending || k.runningB != k.record.activeB then (s, answered .busy)
    else if k.arb ≥ svn then (s, answered .alreadyDone)
    else ({ s with cbl := { k with fuses := k.fuses.blow 0x148 8 svn } }, answered .ok)

/-- FW_REVOKE (R447). -/
def execFwRevoke (c : Client) (tag : BitVec 16) (slot : Nat) (s : State) : Host.Outcome State Fault Refusal :=
  .next <| s.command c tag 0x0025 true false false fun s =>
    let k := s.cbl
    if slot > 3 then (s, failed 0x83)
    else if k.image.nat 5 1 = slot then (s, answered .busy)
    else if k.revoked slot then (s, answered .alreadyDone)
    else
      let b := BitVec.ofNat 8 ((k.fuses.read 0x140).toNat ||| 2 ^ slot)
      ({ s with cbl := { k with fuses := k.fuses.write 0x140 b } }, answered .ok)

/-- What a block holds whose programming failed: any bytes that do not make it valid, and not unprogrammed (R437). -/
def badBlock (i place : Nat) : List Byte :=
  let bs := freeBytes i 256
  let valid := natAt bs 0 1 == 0xA5 && natAt bs 1 1 == place && crcGood bs 252
  if valid || bs.all (· == 0) then 1 :: List.replicate 255 0 else bs

/-- FUSE_GEN: the lowest unprogrammed generation is programmed and read back. good: whether the read-back agrees (R437). -/
def execFuseGen (c : Client) (tag : BitVec 16) (block : List Byte) (good : Bool) (s : State) :
    Host.Outcome State Fault Refusal :=
  .next <| s.command c tag 0x0030 true false false fun s =>
    if s.clk.state != .standby && s.clk.state != .ready then (s, answered .busy)
    else if block.length ≠ 256 then (s, failed 0x83)
    else
      match ([1, 2, 3, 4] : List Nat).find? fun i => s.cbl.fuses.zeros (0x200 + 256 * (i - 1)) 256 with
      | none => (s, failed 0x10)
      | some g =>
        let (i, s) := s.freshN 256
        let bs := if good then block else badBlock i g
        ({ s with cbl := { s.cbl with fuses := s.cbl.fuses.writeN (0x200 + 256 * (g - 1)) bs } },
         if good then answered .ok else failed 0x11)

/-! ### Commands that act on the part (R443, R455, R456, R469, R472, R495) -/

/-- SET_LAST writes FAB_LASTn for given ports (R325). -/
def execSetLast (c : Client) (tag : BitVec 16) (entries : List (Port × Word)) (s : State) :
    Host.Outcome State Fault Refusal :=
  .next <| s.command c tag 0x0040 true true false fun s =>
    (entries.foldl (fun s e => s.modPort e.1 fun x => { x with last := e.2 }) s, answered .ok)

/-- MEASURE extends one of M4 to M7 (R443). -/
def execMeasure (c : Client) (tag : BitVec 16) (m : Nat) (digest : List Byte) (s : State) :
    Host.Outcome State Fault Refusal :=
  .next <| s.command c tag 0x0041 true true false fun s =>
    if m < 4 || m > 7 || digest.length ≠ 64 then (s, failed 0x83)
    else ({ s with cbl := s.cbl.extend (Fin.ofNat 8 m) digest }, answered .ok)

/-- RESET_UNIT: refused for the die and the control complex while the part is ACTIVE; any other reset begins and is logged
(R456, R483). -/
def execResetUnit (c : Client) (tag : BitVec 16) (u : ResetUnit) (s : State) : Host.Outcome State Fault Refusal :=
  .next <| s.command c tag 0x0050 true false false fun s =>
    if s.isActive && (u == .die || u == .ctx) then (s, answered .busy)
    else
      let s := s.event 0x01 0x05 0 .ok 0 (unitNo u) 0
      (if s.clocked u then s.refuse u else s, answered .ok)

/-- POWER: STANDBY stops the fast clocks and turns the stages off; ON in STANDBY makes start-up step 4 due (R469). -/
def execPower (c : Client) (tag : BitVec 16) (on : Bool) (s : State) : Host.Outcome State Fault Refusal :=
  .next <| s.command c tag 0x0051 true false false fun s =>
    if on then
      if s.clk.state == .standby then
        ({ s with clk := { s.clk with target := true, upStep := 4 } }, answered .ok)
      else (s, answered .alreadyDone)
    else if s.isActive || s.clk.state == .frozen || s.clk.state == .fault then (s, answered .busy)
    else
      let s := s.stagesOff.resetDie
      ({ s with clk := { s.clk with state := .standby, target := false, locked := false } }, answered .ok)

/-- SELF_TEST. pass: whether the test passes (R495). -/
def execSelfTest (c : Client) (tag : BitVec 16) (t : SelfTest) (pass : Bool) (s : State) :
    Host.Outcome State Fault Refusal :=
  .next <| s.command c tag 0x0052 true false false fun s =>
    if s.testBusy t then (s, answered .busy)
    else
      let s := if s.fastOn then s.runTest t else s
      if pass then (s, answered .ok)
      else (s.event (testUnit t).1 0x30 2 .aborted intrinsic (testUnit t).2 0, failed 0x20)

/-- FREEZE asserts FRZ_N through the Awl (R472). -/
def execFreeze (c : Client) (tag : BitVec 16) (s : State) : Host.Outcome State Fault Refusal :=
  .next <| s.command c tag 0x0060 true false false fun s => (s.driveFreeze 2 0, answered .ok)

/-! ### The mailbox registers (R457 to R459) -/

/-- A doorbell: the request in CBL_MBREQ goes to Cobbler, or is refused (R457, R458). -/
def execCblDoorbell (s : State) : Host.Outcome State Fault Refusal :=
  .next <|
    let k := s.cbl
    let st := if !s.cblUp then { k with lastStatus := .refusedReset }
      else match k.mbState with
        | .idle => { k with lastStatus := .ok, mbState := .busy }
        | _ => { k with lastStatus := .busy }
    { s with cbl := st }

/-- An acknowledge frees the reply buffer: the next piece, or a notice that waits, is placed (R457 to R459). -/
def execCblAck (s : State) : Host.Outcome State Fault Refusal :=
  .next <|
    if s.cbl.mbState != .reply then s
    else
      match s.cbl.pieces with
      | some (r, k) => s.placePiece r k
      | none => ({ s with cbl := { s.cbl with mbState := .idle } }).placeNotice

end Sys2Proof.Machine
end

