-- ==== Sys2Proof/Machine/Registers.lean ====
section
/-! DEFINITION. The register space: what every register of R505 reads as, and what a write of its plain fields does
(R10, R11, R502 to R505, and the rule that defines each register). -/

namespace Sys2Proof.Machine

/-! ### Blocks (R503) -/

/-- A register's block. -/
inductive Block where
  | core (n : Core) | cluster | welt | insole (k : StackId) | fabric | collective | clicker | control | clock | awl | mail
deriving DecidableEq, Repr

/-- The block of an offset in the register space and the offset within it; none outside every extent (R503). -/
def blockOf (off : Nat) : Option (Block × Nat) :=
  let i := off / 0x10000
  let o := off % 0x10000
  if off < 0x1000000 then some (.core (Fin.ofNat 16 (off / 0x100000)), off % 0x100000)
  else if i = 0x100 then some (.cluster, o)
  else if i = 0x200 then some (.welt, o)
  else if 0x300 ≤ i ∧ i < 0x318 then some (.insole (Fin.ofNat 24 (i - 0x300)), o)
  else if i = 0x400 then some (.fabric, o)
  else if i = 0x500 then some (.collective, o)
  else if i = 0x600 then some (.clicker, o)
  else if i = 0x700 then some (.control, o)
  else if i = 0x800 then some (.clock, o)
  else if i = 0x900 then some (.awl, o)
  else if i = 0xA00 then some (.mail, o)
  else none

/-- The index of a register in an array of n from an offset with a step; none where the offset is no such register. -/
def arrayAt (o first step n : Nat) : Option (Fin n) :=
  if h : first ≤ o ∧ (o - first) % step = 0 ∧ (o - first) / step < n then some ⟨(o - first) / step, h.2.2⟩ else none

/-! ### Reading -/

/-- The code of CORE_STATUS.state (R72). -/
def CoreRun.code (r : CoreRun) : Nat :=
  match r with
  | .idle => 0 | .running => 1 | .waiting => 2 | .halted => 3 | .faulted => 4 | .stopped => 5

/-- Landed blocks that a core's read streams have not moved (R167). -/
def CoreArch.staged (a : CoreArch) : Nat :=
  (a.st.toList.map fun t => if t.active && !t.writes then (t.reqs.filter fun r => r.done && r.status == .ok).length else 0).sum

/-- Bits of a list of conditions, the first in bit 0. -/
def maskOf (bs : List Bool) : Nat := bs.foldr (fun b x => b2n b + 2 * x) 0

/-- A register of a core (R69 to R74, R138, R166, R167, R178, R179). -/
def CoreSt.readReg (c : CoreSt) (o : Nat) : Word :=
  let r := c.reg
  let tags := fun (lo hi : Nat) => (c.tags.filter fun x => lo ≤ x.1 && x.1 < hi).length
  match o with
  | 0x00 => r.entry.zeroExtend 64 <<< 3
  | 0x08 => r.arg
  | 0x10 => fields [(8, r.level.toNat), (2, b2n r.voter)]
  | 0x18 => fields [(48, r.regionId.toNat), (40, r.lastStatus.code), (32, r.faultCause.toNat), (16, r.haltCode.toNat),
      (12, c.rep.toNat), (8, b2n c.region.isSome), (0, r.run.code)]
  | 0x20 => r.health.zeroExtend 64
  | 0x28 => r.faultPc.zeroExtend 64 <<< 3
  | 0x30 => fields [(32, r.nanRow.toNat), (24, r.nanLane.toNat), (20, r.nanStage.toNat), (0, r.vxFlags.toNat)]
  | 0x38 => fields [(16, r.rto.toNat), (8, r.lto.toNat)]
  | 0x40 => fields [(48, tags 0 64), (40, tags 64 96), (32, tags 96 128), (22, c.arch.staged), (16, c.window),
      (0, maskOf (c.arch.st.toList.map Stream.active))]
  | 0x48 => r.srkey
  | 0x50 => r.srepoch.zeroExtend 64
  | _ => 0

/-- CLU_INFOk: its cores and stacks show once start-up has brought them into service (R12, R504). -/
def State.readCluster (s : State) (o : Nat) : Word :=
  match arrayAt o 0 8 4 with
  | none => 0
  | some k =>
    let up := (List.range 6).map fun j => s.stack[(Fin.ofNat 24 (6 * k.val + j))].state == .ready
    let cs := (List.range 4).map fun j => (s.core (Fin.ofNat 16 (4 * k.val + j))).phase == .service
    if s.clk.unitsUp then fields [(20, maskOf up), (16, maskOf cs), (0, k.val)] else fields [(0, k.val)]

/-- A register of the Welt (R240 to R248). -/
def Welt.readReg (w : Welt) (o : Nat) : Word :=
  match arrayAt o 0x100 8 7, arrayAt o 0x180 8 7 with
  | some n, _ => fields [(24, (w.res[n]).cap.toNat), (0, (w.res[n]).res.toNat)]
  | _, some n => fields [(38, (w.use[n]).peak), (18, (w.use[n]).shared), (0, (w.use[n]).used)]
  | none, none =>
    match o with
    | 0x00 => fields [(16, w.lastStatus.code), (8, w.cfgErr.toNat), (4, b2n w.scrubEn)]
    | 0x08 => w.area.zeroExtend 64
    | 0x10 => fields [(36, w.staging), (18, w.poolSize), (0, w.poolFree)]
    | 0x18 => fields [(16, w.ue.toNat), (0, w.ce.toNat)]
    | 0x20 => fields [(4, w.eccWord.toNat), (0, b2n w.eccValid)]
    | 0x28 => fields [(32, w.sweeps.toNat), (0, w.period.toNat)]
    | 0x30 => fields ((w.fwdvc.toList.zipIdx).map fun x => (8 * x.2, x.1.toNat))
    | _ => 0

/-- The code of INS_STAT.state (R282). -/
def StackState.code (x : StackState) : Nat :=
  match x with
  | .ready => 0 | .quiescing => 1 | .resetting => 2 | .training => 3

/-- A register of stack k; INS_MAP and INS_EPRn are in the block of stack 0 only (R279 to R285). -/
def State.readInsole (s : State) (k : StackId) (o : Nat) : Word :=
  let x := s.stack[k]
  match o with
  | 0x00 => fields [(32, x.scrubPeriod.toNat), (16, x.lastStatus.code), (12, if k = 0 then s.ins.cfgErr.toNat else 0),
      (4, b2n x.scrubEn)]
  | 0x10 => fields [(56, x.spareRows.toNat), (48, min 255 x.erasedWires.length), (32, x.erasedDies.toNat), (24, x.throttle.toNat),
      (16, x.temp.toNat), (4, x.uepoch.toNat), (0, x.state.code)]
  | 0x18 => fields [(16, x.ue.toNat), (0, x.ce.toNat)]
  | 0x20 => fields [(6, x.eccLine.toNat), (0, b2n x.eccValid)]
  | 0x28 => x.srkey
  | 0x30 => x.srepoch.zeroExtend 64
  | _ =>
    if k ≠ 0 then 0
    else if o = 0x08 then fields [(8, s.ins.sigma.toNat), (0, s.ins.lambda.toNat)]
    else match arrayAt o 0x100 8 8 with
      | some n => fields [(29, (s.ins.epr[n]).base.toNat), (0, (s.ins.epr[n]).count.toNat)]
      | none => 0

/-- Whether the router is drained (R314). -/
def State.drained (s : State) : Bool :=
  s.fab.injectStop && (s.welt.use[classIdx .fwd]).used == 0 && s.fab.fwd.isEmpty &&
    (s.fab.inject.all fun x => !(x.2.2.kind == 2 || x.2.2.kind == 3)) && s.fab.port.toList.all fun p => p.inq.isEmpty

/-- FAB_PORTn (R326). -/
def FabPort.readReg (x : FabPort) : Word :=
  fields [(48, x.fwGen.toNat), (32, x.farCsym.toNat), (28, x.farLane.toNat), (27, b2n (x.ver == 2)), (24, x.state.code),
    (20, x.ver.toNat), (16, x.width.toNat), (8, x.lanesOk.toNat), (4, x.reason.toNat), (3, b2n x.auto), (2, b2n x.disable)]

/-- A register of the fabric (R316 to R328). -/
def State.readFabric (s : State) (o : Nat) : Word :=
  let f := s.fab
  match o with
  | 0x00 => fields [(16, f.lastStatus.code), (8, f.cfgErr.toNat), (1, b2n f.injectStop)]
  | 0x08 => fields [(56, f.extD.toNat), (48, f.extP.toNat), (40, f.extC.toNat), (32, f.extT.toNat), (24, f.d.toNat),
      (16, f.p.toNat), (8, f.c.toNat), (0, f.t.toNat)]
  | 0x10 => f.lanes.zeroExtend 64
  | 0x18 => f.thresh.zeroExtend 64
  | 0x20 => fields [(32, f.tokenReg.toNat)]
  | 0x30 => fields [(48, f.ftblFull.toNat), (32, f.discRoute.toNat), (16, f.discFenced.toNat), (0, f.discBad.toNat)]
  | 0x38 => fields [(8, maskOf (f.port.toList.map fun p => p.state == .up)), (2, b2n f.fenced), (1, b2n s.drained),
      (0, b2n s.allUp)]
  | _ =>
    match arrayAt o 0x100 8 16, arrayAt o 0x200 8 8, arrayAt o 0x300 16 8, arrayAt o 0x308 16 8 with
    | some n, _, _, _ => fields [(32, (f.ftbl[n]).token.toNat), (16, b2n (f.ftbl[n]).valid), (0, (f.ftbl[n]).coord.toNat)]
    | _, some n, _, _ => (f.port[n]).last
    | _, _, some n, _ => (f.port[n]).readReg
    | _, _, _, some n =>
      let x := f.port[n]
      fields [(48, x.downs.toNat), (32, x.drop.toNat), (16, x.fecUe.toNat), (0, x.crc.toNat)]
    | none, none, none, none =>
      match arrayAt o 0x400 16 8, arrayAt o 0x408 16 8 with
      | some n, _ => (f.port[n]).part
      | _, some n => (f.port[n]).partx
      | none, none => 0

/-- The code of CLE_STEPSTAT.decision (R377). -/
def Decision.code (d : Decision) : Nat :=
  match d with
  | .none => 0 | .commit => 1 | .abort => 2

/-- CLE_COMMXn (R355). -/
def State.readCommx (s : State) (c : Comm) : Word :=
  let x := s.comm c
  let (w, credits) := match x.on with
    | some (w, k) => (w, creditsOf w k.toNat)
    | none => (x.comm, 0)
  fields [(48, (SMap.get 0 (s.core (commCore w)).seq c.toNat).toNat),
    (40, (s.coll.active.filter fun a => a.comm == c).length % 256), (16, credits), (0, x.slots.toNat)]

/-- A register of the collective engine and the step protocol (R351 to R355, R374 to R380). -/
def State.readCollective (s : State) (o : Nat) : Word :=
  let k := s.coll
  let t := s.step
  match o with
  | 0x000 => fields [(24, k.cdef.toNat), (16, k.lastStatus.code), (8, k.cfgErr.toNat)]
  | 0x008 => fields [(16, k.cto.toNat)]
  | 0x010 => fields [(48, k.rereq.toNat), (32, k.timeouts.toNat), (16, k.seqMm.toNat), (0, k.dropped.toNat)]
  | 0x100 => fields [(48, t.vgid.toNat), (32, t.vto.toNat), (0, b2n t.autoAbort)]
  | 0x108 => t.grp.zeroExtend 64
  | 0x110 => fields [(32, s.epoch.toNat), (24, t.attempt.toNat), (0, s.voteResult.toNat)]
  | 0x118 => fields [(48, t.flagWord.toNat), (32, t.sealWord.toNat), (24, t.lastStatus.code), (6, t.decision.code),
      (5, b2n t.sealDone), (4, b2n t.flagDone)]
  | 0x128 => fields [(48, t.peer.toNat), (40, t.matched.toNat), (32, t.mismatches.toNat), (24, t.shStatus.code),
      (0, t.mode.toNat)]
  | 0x130 => t.digest
  | _ =>
    match arrayAt o 0x1000 16 256, arrayAt o 0x1008 16 256 with
    | some n, _ => (s.comm (BitVec.ofNat 8 n.val)).comm
    | _, some n => s.readCommx (BitVec.ofNat 8 n.val)
    | none, none => 0

/-- The code of ING_STAT.state (R412). -/
def LoaderState.code (x : LoaderState) : Nat :=
  match x with
  | .idle => 0 | .filling => 1 | .full => 2 | .stalled => 3 | .stopped => 4

/-- A register of the Clicker (R409 to R415). -/
def Clicker.readReg (c : Clicker) (o : Nat) : Word :=
  match o with
  | 0x00 => fields [(16, c.lastStatus.code), (8, c.cfgErr.toNat)]
  | 0x08 => fields [(48, c.batch.toNat), (40, c.comm.toNat), (36, c.nbatch.toNat), (30, c.sem.toNat), (0, c.entries.toNat)]
  | 0x10 => c.seed
  | 0x18 => fields [(32, c.fillEpoch.toNat), (20, c.stallConn.toNat), (16, (c.slots.filter (· == .ready)).length),
      (4, c.tsErr.toNat), (0, c.state.code)]
  | 0x20 => c.tbl.zeroExtend 64 <<< 6
  | 0x28 => c.prof.zeroExtend 64 <<< 6
  | 0x30 => c.pool.zeroExtend 64 <<< 6
  | 0x38 => c.conn.zeroExtend 64 <<< 6
  | 0x40 => c.pos.zeroExtend 64 <<< 6
  | 0x48 => c.audio
  | _ =>
    match arrayAt o 0x100 8 8 with
    | none => 0
    | some n =>
      let x := c.port[n]
      fields [(48, x.fecCorr.toNat), (32, x.rxDrop.toNat), (16, x.pfcTx.toNat), (8, x.lossless.toNat), (1, b2n x.up),
        (0, b2n x.disable)]

/-- A ring's register (R429). -/
def FrameRing.readRing (r : FrameRing) : Word := fields [(16, r.base.toNat), (0, r.lslots.toNat)]
/-- A ring's indexes (R430). -/
def FrameRing.readIdx (r : FrameRing) : Word := fields [(48, r.drops.toNat), (16, r.head.toNat), (0, r.tail.toNat)]

/-- A register of the control complex (R427 to R431, R491). -/
def Control.readReg (c : Control) (o : Nat) : Word :=
  match o with
  | 0x00 => c.pend.zeroExtend 64
  | 0x08 => c.hostGib.zeroExtend 64
  | 0x10 => c.rx.readRing
  | 0x18 => c.rx.readIdx
  | 0x20 => c.tx.readRing
  | 0x28 => c.tx.readIdx
  | _ =>
    match arrayAt o 0x100 8 24 with
    | some h => (c.irqEn[h]).zeroExtend 64
    | none => 0

/-- The code of CLK_STATE.prev: 0 before any state was left on entry to FENCED, FROZEN or FAULT (R476). -/
def prevCode (p : PartState) : Nat := if p == .off then 0 else p.code

/-- The code of CLK_CLUPOL.gstate (R479). -/
def Gate.code (g : Gate) : Nat :=
  match g with
  | .on => 0 | .clockGated => 1 | .powerGated => 2 | .waking => 3

/-- A register of the clock and power block (R476 to R480, R489, R490). -/
def State.readClock (s : State) (o : Nat) : Word :=
  let k := s.clk
  match o with
  | 0x00 => fields [(8, prevCode k.prev), (0, k.state.code)]
  | 0x08 => fields [(16, k.jobStatus.code)]
  | 0x10 => fields [(24, k.cclkLim.toNat), (16, k.cclk.toNat), (8, k.aclkLim.toNat), (0, k.aclk.toNat)]
  | 0x18 => fields ((0, k.policy.toNat) :: (k.gate.toList.zipIdx).map fun x => (8 + 2 * x.2, x.1.code))
  | 0x20 => s.now
  | 0x28 => k.adj.zeroExtend 64
  | 0x38 => fields [(0, b2n k.locked)]
  | 0x40 => fields ((k.coreEpoch.toList.zipIdx).map fun x => (4 * x.2, x.1.toNat))
  | 0x48 => fields ((32, k.ctxEpoch.toNat) :: (k.ethEpoch.toList.zipIdx).map fun x => (4 * x.2, x.1.toNat))
  | _ => 0

/-- A register of the Awl (R381, R382, R481, R482). -/
def State.readAwl (s : State) (o : Nat) : Word :=
  let a := s.awl
  match o with
  | 0x000 => fields [(3, b2n a.onVote), (2, b2n a.onNan), (1, b2n a.onResidue), (0, b2n a.onFault)]
  | 0x008 => fields [(8, a.frzCause.toNat), (4, a.frzUnit.toNat), (0, b2n (s.clk.state == .frozen))]
  | 0x010 => a.frzTime
  | 0x200 => fields [(16, a.rewStatus.code), (1, b2n a.snapValid)]
  | _ =>
    match arrayAt o 0x208 8 8 with
    | some n => a.rplrec[n]
    | none => 0

/-- The code of CBL_MBSTAT.state (R460). -/
def MailState.code (m : MailState) : Nat :=
  match m with
  | .idle => 0 | .busy => 1 | .reply => 2 | .reset => 3

/-- A register of the mailbox (R459 to R461). -/
def Cobbler.readReg (c : Cobbler) (o : Nat) : Word :=
  match o with
  | 0x00 => fields [(16, c.lastStatus.code)]
  | 0x08 => fields [(8, c.rspStatus.code), (4, c.mbState.code), (0, c.uepoch.toNat)]
  | _ =>
    match arrayAt o 0x100 8 32, arrayAt o 0x200 8 32 with
    | some n, _ => c.mbReq[n]
    | _, some n => c.mbRsp[n]
    | none, none => 0

/-- What the register at an offset of the register space reads as: zero where a block holds none, none outside every block
(R502, R503). -/
def State.readReg (s : State) (off : Nat) : Option Word :=
  (blockOf off).map fun x =>
    match x.1 with
    | .core n => (s.core n).readReg x.2
    | .cluster => s.readCluster x.2
    | .welt => s.welt.readReg x.2
    | .insole k => s.readInsole k x.2
    | .fabric => s.readFabric x.2
    | .collective => s.readCollective x.2
    | .clicker => s.ing.readReg x.2
    | .control => s.ctx.readReg x.2
    | .clock => s.readClock x.2
    | .awl => s.readAwl x.2
    | .mail => s.cbl.readReg x.2

/-! ### Writing plain fields -/

/-- Bits [hi:lo] of a written word, as a field of w bits. -/
def fieldOf (v : Word) (w hi lo : Nat) : BitVec w := BitVec.ofNat w (bitsOf v hi lo)

/-- Plain fields of a core's registers (R69 to R73, R138, R166). -/
def CoreRegs.writePlain (r : CoreRegs) (o : Nat) (v : Word) : CoreRegs :=
  match o with
  | 0x00 => { r with entry := fieldOf v 61 63 3 }
  | 0x08 => { r with arg := v }
  | 0x10 => { r with level := fieldOf v 8 15 8, voter := bitOf v 2 }
  | 0x20 => { r with health := r.health &&& ~~~ fieldOf v 8 7 0 }
  | 0x30 => { r with vxFlags := r.vxFlags &&& ~~~ fieldOf v 5 4 0 }
  | 0x38 => { r with rto := fieldOf v 16 31 16, lto := fieldOf v 8 15 8 }
  | _ => r

/-- Plain fields of the Welt's registers (R240, R241, R245 to R247). -/
def Welt.writePlain (w : Welt) (o : Nat) (v : Word) : Welt :=
  match o with
  | 0x00 => { w with scrubEn := bitOf v 4 }
  | 0x08 => { w with area := fieldOf v 12 11 0 }
  | 0x28 => { w with period := fieldOf v 16 15 0 }
  | 0x30 => { w with fwdvc := Vector.ofFn fun i => fieldOf v 8 (8 * i.val + 7) (8 * i.val) }
  | _ =>
    match arrayAt o 0x100 8 7 with
    | some n => { w with res := vput w.res n { res := fieldOf v 18 17 0, cap := fieldOf v 18 41 24 } }
    | none => w

/-- Plain fields of a stack's registers (R279 to R281). -/
def State.writeInsole (s : State) (k : StackId) (o : Nat) (v : Word) : State :=
  if o = 0 then s.modStack k fun x => { x with scrubPeriod := fieldOf v 16 47 32, scrubEn := bitOf v 4 }
  else if k ≠ 0 then s
  else if o = 0x08 then { s with ins := { s.ins with sigma := fieldOf v 6 13 8, lambda := fieldOf v 6 5 0 } }
  else match arrayAt o 0x100 8 8 with
    | some n =>
      let e : Epr := { base := fieldOf v 29 57 29, count := fieldOf v 29 28 0 }
      { s with ins := { s.ins with epr := vput s.ins.epr n e } }
    | none => s

/-- Plain fields of the fabric's registers (R318 to R320, R326). -/
def State.writeFabric (s : State) (o : Nat) (v : Word) : State :=
  match o with
  | 0x10 => { s with fab := { s.fab with lanes := fieldOf v 16 15 0 } }
  | 0x18 => { s with fab := { s.fab with thresh := fieldOf v 8 7 0 } }
  | 0x20 => { s with fab := { s.fab with tokenReg := fieldOf v 24 55 32 } }
  | _ =>
    match arrayAt o 0x300 16 8 with
    | some n => s.modPort n fun x => { x with auto := bitOf v 3 }
    | none => s

/-- The bits CLE_COMMn holds (R354). -/
def commMask : Word := 0xFFFFF10003FFFFFF

/-- Plain fields of the collective engine's and the step protocol's registers (R351, R352, R354, R355, R379). -/
def State.writeCollective (s : State) (o : Nat) (v : Word) : State :=
  match o with
  | 0x000 => { s with coll := { s.coll with cdef := fieldOf v 8 31 24 } }
  | 0x008 => { s with coll := { s.coll with cto := fieldOf v 16 31 16 } }
  | 0x128 => { s with step := { s.step with peer := fieldOf v 16 63 48 } }
  | _ =>
    match arrayAt o 0x1000 16 256, arrayAt o 0x1008 16 256 with
    | some n, _ => s.modComm (BitVec.ofNat 8 n.val) fun x => { x with comm := v &&& commMask }
    | _, some n => s.modComm (BitVec.ofNat 8 n.val) fun x => { x with slots := fieldOf v 16 15 0 }
    | none, none => s

/-- Plain fields of the Clicker's registers (R410, R411, R413, R415). -/
def Clicker.writePlain (c : Clicker) (o : Nat) (v : Word) : Clicker :=
  match o with
  | 0x08 => { c with batch := fieldOf v 16 63 48, comm := fieldOf v 8 47 40, nbatch := fieldOf v 4 39 36
                     sem := fieldOf v 6 35 30, entries := fieldOf v 30 29 0 }
  | 0x10 => { c with seed := v }
  | 0x20 => { c with tbl := fieldOf v 58 63 6 }
  | 0x28 => { c with prof := fieldOf v 58 63 6 }
  | 0x30 => { c with pool := fieldOf v 58 63 6 }
  | 0x38 => { c with conn := fieldOf v 58 63 6 }
  | 0x40 => { c with pos := fieldOf v 58 63 6 }
  | _ =>
    match arrayAt o 0x100 8 8 with
    | some n => { c with port := vmod c.port n fun x => { x with lossless := fieldOf v 8 15 8 } }
    | none => c

/-- Plain fields of the control complex's registers (R427, R431). -/
def Control.writePlain (c : Control) (o : Nat) (v : Word) : Control :=
  if o = 0 then { c with pend := c.pend &&& ~~~ fieldOf v 32 31 0 }
  else match arrayAt o 0x100 8 24 with
    | some h => { c with irqEn := vput c.irqEn h (fieldOf v 32 31 0) }
    | none => c

/-- Write the fields of a register that have no behaviour of their own (R11). -/
def State.writePlain (s : State) (off : Nat) (v : Word) : State :=
  match blockOf off with
  | none => s
  | some (.core n, o) => s.modReg n fun r => r.writePlain o v
  | some (.welt, o) => { s with welt := s.welt.writePlain o v }
  | some (.insole k, o) => s.writeInsole k o v
  | some (.fabric, o) => s.writeFabric o v
  | some (.collective, o) => s.writeCollective o v
  | some (.clicker, o) => { s with ing := s.ing.writePlain o v }
  | some (.control, o) => { s with ctx := s.ctx.writePlain o v }
  | some (.clock, o) => if o = 0x28 then { s with clk := { s.clk with adj := fieldOf v 32 31 0 } } else s
  | some (.awl, o) =>
    if o = 0 then
      { s with awl := { s.awl with onVote := bitOf v 3, onNan := bitOf v 2, onResidue := bitOf v 1, onFault := bitOf v 0 } }
    else s
  | some (.mail, o) =>
    match arrayAt o 0x100 8 32 with
    | some n => { s with cbl := { s.cbl with mbReq := vput s.cbl.mbReq n v } }
    | none => s
  | some (.cluster, _) => s

/-- The offset of a register address, for an access of 8 B at a multiple of 8 in the register space (R417, R502). -/
def regOff (a : Nat) : Option Nat :=
  if regBase ≤ a ∧ a < regBase + 0xB000000 ∧ a % 8 = 0 then some (a - regBase) else none

/-- A write of a register's plain fields (R11). -/
def execRegisterWrite (addr v : Word) (s : State) : Host.Outcome State Fault Refusal :=
  .next <|
    match regOff addr.toNat with
    | some off => s.writePlain off v
    | none => s

end Sys2Proof.Machine
end

