-- ==== Sys2Proof/Machine/Access.lean ====
section
/-! DEFINITION. What a hart's access does (R417, R418, R502), writes of whole registers with the acts of their fields, and
the read-out of a frozen part (R475). -/

namespace Sys2Proof.Machine

/-- The state after a register's act. -/
def after (s : State) (o : Host.Outcome State Fault Refusal) : State :=
  match o with
  | .next t => t
  | _ => s

/-- Do a register's act where its bit is written as 1. -/
def onBit (v : Word) (i : Nat) (f : State → Host.Outcome State Fault Refusal) (s : State) : State :=
  if bitOf v i then after s (f s) else s

/-- The acts of a core's registers: a write with both start and stop acts as a stop (R71, R178, R179). -/
def State.actCore (s : State) (n : Core) (o : Nat) (v : Word) : State :=
  match o with
  | 0x10 =>
    if bitOf v 1 then after s (execCoreLaunchStop n s)
    else onBit v 0 (execCoreLaunchStart n (fieldOf v 8 15 8) (bitOf v 2)) s
  | 0x48 => after s (execCoreSrkeyWrite n v s)
  | 0x50 => after s (execCoreSrepochWrite n (fieldOf v 32 31 0) s)
  | _ => s

/-- The acts of a stack's registers (R279, R285). -/
def State.actInsole (s : State) (k : StackId) (o : Nat) (v : Word) : State :=
  match o with
  | 0x00 =>
    let s := onBit v 3 (execInsClrCnt k) s
    let s := onBit v 1 (execInsReset k (bitOf v 2)) s
    if k = 0 then onBit v 0 execInsApply s else s
  | 0x28 => after s (execInsSrkeyWrite k v s)
  | 0x30 => after s (execInsSrepochWrite k (fieldOf v 32 31 0) s)
  | _ => s

/-- The acts of the fabric's registers (R316, R317, R320, R321, R324 to R326). -/
def State.actFabric (s : State) (o : Nat) (v : Word) : State :=
  match o with
  | 0x00 =>
    let s := after s (execFabInjectStop (bitOf v 1) s)
    onBit v 0 execFabLaneApply (onBit v 3 execFabClrCnt s)
  | 0x08 => after s (execFabTopoWrite v s)
  | 0x20 =>
    let t : BitVec 24 := fieldOf v 24 55 32
    onBit v 1 (execFabFenceClear t) (onBit v 0 (execFabFenceSet t) s)
  | 0x28 => after s (execFabNoticeWrite v s)
  | _ =>
    match arrayAt o 0x100 8 16, arrayAt o 0x200 8 8, arrayAt o 0x300 16 8 with
    | some n, _, _ => after s (execFabFtblWrite n v s)
    | _, some n, _ => after s (execFabLastWrite n v s)
    | _, _, some n =>
      let s := if bitOf v 2 == s.fab.port[n].disable then s else after s (execFabPortDisable n (bitOf v 2) s)
      onBit v 1 (execFabPortIdent n) (onBit v 0 (execFabPortRetrain n) s)
    | none, none, none => s

/-- The acts of the collective engine's and the step protocol's registers (R351, R374, R375, R378, R379). -/
def State.actCollective (s : State) (o : Nat) (v : Word) : State :=
  match o with
  | 0x000 => onBit v 0 (execCleApply (fieldOf v 8 31 24)) (onBit v 1 execCleClrCnt s)
  | 0x100 => after s (execCleStepcfgWrite false v s)
  | 0x108 => after s (execCleStepcfgWrite true v s)
  | 0x120 =>
    let e : BitVec 32 := fieldOf v 32 63 32
    let a : BitVec 8 := fieldOf v 8 31 24
    let r : BitVec 16 := fieldOf v 16 15 0
    if bitOf v 17 then after s (execCleDecideAbort e a r s) else onBit v 16 (execCleDecideCommit e a r) s
  | 0x128 => after s (execCleShadowModeWrite (fieldOf v 2 1 0) s)
  | _ => s

/-- The acts of the Clicker's registers (R409, R415). -/
def State.actClicker (s : State) (o : Nat) (v : Word) : State :=
  match o with
  | 0x00 => onBit v 0 execIngGo (onBit v 2 execIngResume (onBit v 1 execIngStop (onBit v 3 execIngClrCnt s)))
  | _ =>
    match arrayAt o 0x100 8 8 with
    | some n =>
      let s := if bitOf v 0 == s.ing.port[n].disable then s else after s (execIngPortDisable n (bitOf v 0) s)
      onBit v 2 (execIngPortReset n) s.flowControl
    | none => s

/-- The acts of the control complex's registers (R429, R430, R491). -/
def State.actControl (s : State) (o : Nat) (v : Word) : State :=
  match o with
  | 0x10 => after s (execCtxRingWrite false v s)
  | 0x18 => after s (execCtxRxidxTailWrite (fieldOf v 16 15 0) s)
  | 0x20 => after s (execCtxRingWrite true v s)
  | 0x28 => after s (execCtxTxidxTailWrite (fieldOf v 16 15 0) s)
  | 0x30 => onBit v 0 execCtxReset s
  | _ => s

/-- The acts of the clock and power registers (R477 to R480). -/
def State.actClock (s : State) (o : Nat) (v : Word) : State :=
  match o with
  | 0x08 => onBit v 1 execClkJobLeave (onBit v 0 execClkJobEnter s)
  | 0x10 => after s (execClkFreqWrite (fieldOf v 8 23 16) (fieldOf v 5 4 0) s)
  | 0x18 => after s (execClkClupolWrite (fieldOf v 8 7 0) s)
  | 0x20 => after s (execClkTimeWrite v s)
  | 0x30 => after s (execClkTstepWrite v s)
  | _ => s

/-- The acts of a written register's fields. -/
def State.actReg (s : State) (off : Nat) (v : Word) : State :=
  match blockOf off with
  | none => s
  | some (.core n, o) => s.actCore n o v
  | some (.cluster, _) => s
  | some (.welt, o) =>
    if o = 0 then onBit v 0 execWltApply (onBit v 2 execWltClrPeak (onBit v 3 execWltClrCnt s)) else s
  | some (.insole k, o) => s.actInsole k o v
  | some (.fabric, o) => s.actFabric o v
  | some (.collective, o) => s.actCollective o v
  | some (.clicker, o) => s.actClicker o v
  | some (.control, o) => s.actControl o v
  | some (.clock, o) => s.actClock o v
  | some (.awl, o) =>
    if o = 0 then onBit v 8 execAwlFreezeWrite s else if o = 0x200 then onBit v 0 execAwlRewind s else s
  | some (.mail, o) => if o = 0 then onBit v 0 execCblDoorbell (onBit v 1 execCblAck s) else s

/-- A write of a whole register: its plain fields, then the acts of its other fields; a write of CORE_LAUNCH that starts
writes level and voter with the start. -/
def State.writeReg (s : State) (off : Nat) (v : Word) : State := (s.writePlain off v).actReg off v

/-! ### A hart's access (R417, R418) -/

/-- The access ends with a fault on the hart: its address is kept (R417, R418). -/
def State.hartFault (s : State) (h : Hart) (a : Word) : State :=
  { s with ctx := { s.ctx with accessFault := vput s.ctx.accessFault h true, faultAddr := vput s.ctx.faultAddr h a } }

/-- The access completes; a load's value is kept. -/
def State.hartDone (s : State) (h : Hart) (v : Option Word) : State :=
  let c := { s.ctx with accessFault := vput s.ctx.accessFault h false }
  match v with
  | some v => { s with ctx := { c with load := vput c.load h v } }
  | none => { s with ctx := c }

/-- The core whose registers or scratch an address names. -/
def State.coreAt (s : State) (a : Nat) : Option Core :=
  if regBase ≤ a ∧ a < regBase + 0x1000000 then some (Fin.ofNat 16 ((a - regBase) / 0x100000))
  else match s.locate false a with
    | some (.scratch n _) => some n
    | _ => none

/-- A register access: 8 B at a multiple of 8 inside a block's extent (R417, R502). -/
def State.regAccess (s : State) (h : Hart) (x : Access) (off : Nat) : State :=
  match s.readReg off with
  | none => s.hartFault h x.addr
  | some v => if x.op == .store then (s.writeReg off x.data).hartDone h none else s.hartDone h (some v)

/-- An access to a core's scratch, which is not cached (R417); a store into part of a poisoned word makes its bytes and is
reported as a fault (R236, R518). -/
def State.scratchAccess (s : State) (h : Hart) (x : Access) : State :=
  let a := x.addr.toNat
  if x.op == .store then
    let cells := (leBytes x.bytes x.data.toNat).zipIdx.map fun b => (a + b.2, b.1)
    let (s, bad) := (s.maskedErrors cells x.ecc).writeCells cells
    if bad then s.hartFault h x.addr else s.hartDone h none
  else
    let (s, st, bs) := s.readMem false a x.bytes x.ecc
    if st = .ok then s.hartDone h (some (BitVec.ofNat 64 (leNat bs))) else s.hartFault h x.addr

/-- A load from cacheable memory: from the harts' copies, which engines' writes do not change (R417, R418, R421). -/
def State.cachedLoad (s : State) (h : Hart) (x : Access) : State :=
  let a := x.addr.toNat
  let (s, ok) := s.fillLines (fun _ => false) (linesOf a x.bytes) x.ecc
  if ok then s.hartDone h (some (BitVec.ofNat 64 (leNat ((List.range x.bytes).map fun i => s.cachedByte false (a + i)))))
  else s.hartFault h x.addr

/-- A store to cacheable memory: into the harts' copies, which are dirty then (R417, R421). Where a copy cannot be had because
its line fails its code, the bytes go to memory, which reports that they covered it in part (DESIGN CHOICE, log 125). -/
def State.cachedStore (s : State) (h : Hart) (x : Access) : State :=
  let a := x.addr.toNat
  let cells := (leBytes x.bytes x.data.toNat).zipIdx.map fun b => (a + b.2, b.1)
  let (s, ok) := s.fillLines s.lineNext (linesOf a x.bytes) x.ecc
  if ok then (s.storeCached cells).hartDone h none else ((s.writeCells cells).1).hartFault h x.addr

/-- A load or store of memory: in one reachable space whose unit takes requests, with a CTL block for what it reads (R226, R229,
R417, R418, R483). -/
def State.memAccess (s : State) (h : Hart) (x : Access) : State :=
  let a := x.addr.toNat
  let next := fun (l : Nat) => x.op == .store && s.lineNext l
  if !s.reach a x.bytes then s.hartFault h x.addr
  else if !s.cacheable a then
    if !s.serves a then s.hartFault h x.addr else s.throughWelt .ctl ctlBlock 1 fun s => s.scratchAccess h x
  else
    let missing := (linesOf a x.bytes).filter fun l => s.misses (next l) l
    let act := fun (s : State) => if x.op == .store then s.cachedStore h x else s.cachedLoad h x
    if missing.isEmpty then act s
    else if missing.any fun l => !s.serves (l * 64) then s.hartFault h x.addr
    else s.throughWelt .ctl ctlBlock 1 act

/-- A cache-block operation on the line of an address; it does nothing to memory that is not cached, and faults on an address
that is not mapped (R416, R417, R420, R421; what CBO.INVAL does to a dirty line is PRESUMED from Zicbom, log 125). -/
def State.cbo (s : State) (h : Hart) (x : Access) : State :=
  let l := x.addr.toNat / 64
  if !s.reach x.addr.toNat 1 then s.hartFault h x.addr
  else
    (match x.op with
    | .clean => s.writeBack (some h) l
    | .flush => (s.writeBack (some h) l).dropLine l
    | _ => s.dropLine l).hartDone h none

/-- A hart's FENCE: with O among its successors it ends once the hart's earlier CBO.CLEAN and CBO.FLUSH have been acknowledged
(R420, R421). -/
def State.hartFence (s : State) (h : Hart) (succO : Bool) : State :=
  if !succO then s.hartDone h none
  else
    let s := s.landFor h
    if s.published h then s.hartDone h none else s

/-- A hart loads from or stores to memory or a register, does a cache-block operation, or fences; or a line is evicted, or a
write-back acknowledged. An access to a gated cluster's core wakes it (R417, R418, R420, R421, R468, R502). -/
def execCcMemoryAccess (h : Hart) (x : Access) (s : State) : Host.Outcome State Fault Refusal :=
  .next <|
    if !s.fastOn then s
    else
      match x.op with
      | .ack => s.landNext
      | .evict => (s.writeBack none (x.addr.toNat / 64)).dropLine (x.addr.toNat / 64)
      | .fence o => if s.ctx.running then s.hartFence h o else s
      | .clean | .flush | .inval =>
        if !s.ctx.running then s
        else if regBase ≤ x.addr.toNat ∧ x.addr.toNat < regBase + 0xB000000 then s.hartDone h none
        else s.cbo h x
      | .load | .store =>
        if !s.ctx.running then s
        else
          let a := x.addr.toNat
          let s := match s.coreAt a with
            | some n => s.wake (clusterOf n)
            | none => s
          if regBase ≤ a ∧ a < regBase + 0xB000000 then
            match regOff a with
            | some off => if x.bytes = 8 then s.regAccess h x off else s.hartFault h x.addr
            | none => s.hartFault h x.addr
          else s.memAccess h x

/-! ### Frozen read-out (R475) -/

/-- Bytes of a space for a unit; none where R475 names no such space or unit. The sizes of spaces 3 and 4 are those of the
example there, and that of space 5 is open. -/
def spaceSize (space u : Nat) : Option Nat :=
  match space with
  | 0 => some 0xB000000
  | 1 => some (2 ^ 29)
  | 2 => if u < 16 then some scratchSize else none
  | 3 => if u < 16 then some 36864 else none
  | 4 => if u < 16 then some (2 ^ 20) else none
  | 5 => some (2 ^ 32)
  | 6 => if u < 24 then some (2 ^ 36) else none
  | _ => none

/-- Byte i of a byte string. -/
def byteOf (bs : List Byte) (i : Nat) : Byte := (bs.drop (i % max 1 bs.length)).headD 0

/-- Byte i of piece k of what space 3 shows of a core: scalar, predicate, vector and mask registers, semaphores, rings' heads and
tails, stream registers, and the queues' contents (R475). -/
def CoreSt.frozenReg (c : CoreSt) (k i : Nat) : Byte :=
  let a := c.arch
  let stream := fun (x : Stream) => leBytes 8 x.addr.toNat ++ leBytes 8 x.ctl.toNat ++ (x.stride.map fun y => leBytes 8 y.toNat).flatten ++
    (x.count.map fun y => leBytes 4 y.toNat).flatten
  let entry := fun (e : QEntry) => leBytes 6 e.w.toNat ++ leBytes 8 e.a.toNat ++ leBytes 8 e.b.toNat ++ leBytes 8 e.c.toNat
  let queue := fun (q : Queue) => ((q.running.map RunEntry.e ++ q.waiting).map entry).flatten
  match k with
  | 0 => byteOf (a.s.toList.map fun x => leBytes 8 x.toNat).flatten i
  | 1 => byteOf (a.p.toList.map fun x => leBytes 1 (b2n x)).flatten i
  | 2 => byteOf (leBytes 4 (SMap.get 0 a.v (i / 4 % 8192)).toNat) (i % 4)
  | 3 => byteOf (a.m.toList.map fun x => leBytes 32 x.toNat).flatten i
  | 4 => byteOf (a.sem.toList.map fun x => leBytes 2 x.count.toNat ++ leBytes 1 x.status.code).flatten i
  | 5 => byteOf (a.ring.toList.map fun x => leBytes 2 x.head ++ leBytes 2 x.tail).flatten i
  | 6 => byteOf (a.st.toList.map stream).flatten i
  | _ => byteOf ([c.mx, c.mv, c.vx, c.stq, c.cl].map queue).flatten i

/-- Byte i of piece k of what space 4 shows of a core: the heel, then the elements and the scales of both tile banks (R475). -/
def CoreArch.frozenTile (a : CoreArch) (k i : Nat) : Byte :=
  let b := a.bank[(Fin.ofNat 2 (k / 2) : Fin 2)]
  match k with
  | 0 => a.heel.read i
  | _ => if k % 2 = 1 then byteOf (leBytes 2 (SMap.get 0 b.elems (i / 2)).toNat) (i % 2) else SMap.get 0 b.scales i

/-- Byte i of piece k of what space 5 shows: the trace, the numerics log and the replay record (R475). -/
def Awl.frozenLog (a : Awl) (k i : Nat) : Byte :=
  match k with
  | 0 => byteOf (a.trace.map fun t => leBytes 1 t.core.val ++ leBytes 2 t.imm.toNat ++ leBytes 8 t.pc.toNat ++ leBytes 2 t.region.toNat ++
      leBytes 8 t.cycles.toNat).flatten i
  | 1 => byteOf (a.numLog.map fun r => leBytes 1 r.core.val ++ leBytes 8 r.id ++ leBytes 2 r.region.toNat ++ leBytes 1 r.r.toNat ++
      leBytes 8 r.pc.toNat ++ leBytes 1 r.kind ++ leBytes 8 r.row ++ leBytes 2 r.col ++ leBytes 1 r.stage ++
      leBytes 2 (r.what % 65536).toNat ++ leBytes 4 r.more).flatten i
  | _ => byteOf (a.rplrec.toList.map fun x => leBytes 8 x.toNat).flatten i

/-- The frozen content of a space, a byte at a time; none for staging. Where the layout of the content is open, which of its
bytes stands at an offset is a free value (R475, log 130). -/
def State.frozenByte (s : State) (space u a : Nat) : Option Byte :=
  match space with
  | 0 => some (BitVec.ofNat 8 (((s.readReg (a / 8 * 8)).getD 0).toNat / 256 ^ (a % 8)))
  | 1 => if a < s.welt.areaOn.toNat * 2 ^ 18 then some (s.welt.mem.read a) else none
  | 2 => some ((s.core (Fin.ofNat 16 u)).arch.scratch.read a)
  | 3 => some ((s.core (Fin.ofNat 16 u)).frozenReg (Config.frozenPlace 3 a).1 (Config.frozenPlace 3 a).2)
  | 4 => some ((s.core (Fin.ofNat 16 u)).arch.frozenTile (Config.frozenPlace 4 a).1 (Config.frozenPlace 4 a).2)
  | 5 => some (s.awl.frozenLog (Config.frozenPlace 5 a).1 (Config.frozenPlace 5 a).2)
  | 6 => some (s.stack[(Fin.ofNat 24 u)].dram.read a)
  | _ => none

/-- Whether a byte of a space lies in a unit already known to fail its code. -/
def State.frozenBad (s : State) (space u a : Nat) : Bool :=
  match space with
  | 1 => s.welt.poison.contains (a / 16)
  | 2 => (s.core (Fin.ofNat 16 u)).arch.scratchPoison.contains (a / 16)
  | 6 => s.stack[(Fin.ofNat 24 u)].poison.contains (a / 64)
  | _ => false

/-- Bytes of a code word of a space: a 64 B line of a stack, 16 B elsewhere (R235, R258, R518). -/
def frozenWord (space : Nat) : Nat := if space = 6 then 64 else 16

/-- READ_FROZEN: a piece of a space of a frozen part. A word that fails its code comes back as zero, with
ECC_UNCORRECTABLE and a bitmap of the piece's 64 B lines that hold one. bad: the code words found failing now (R475). -/
def execReadFrozen (c : Client) (tag : BitVec 16) (space : Nat) (u : Nat) (offset : Nat) (len : Nat) (bad : List Nat)
    (s : State) : Host.Outcome State Fault Refusal :=
  .next <| s.command c tag 0x0061 false false false fun s =>
    if s.clk.state != .frozen then
      let (i, s) := s.fresh
      (s, answered ((Status.ofCode ((Config.free i).toNat % 256)).getD .aborted))
    else if s.clk.prev == .boot && !s.clk.lock then (s, failed 0x84)
    else
      match spaceSize space u with
      | none => (s, failed 0x83)
      | some size =>
        if len > 65536 || offset + len > size then (s, failed 0x83)
        else
          let (i, s) := s.freshN len
          let fails := fun (j : Nat) => bad.contains ((offset + j) / frozenWord space) || s.frozenBad space u (offset + j)
          let lines := (List.range ((len + 63) / 64)).map fun l =>
            (List.range (min 64 (len - 64 * l))).any fun j => fails (64 * l + j)
          let unset := s.clk.contentsLost && (space == 1 || space == 2 || space == 6)
          let data := (List.range len).map fun j =>
            if fails j then 0
            else (if unset then none else s.frozenByte space u (offset + j)).getD (freeByte (Config.free (i + j)))
          if lines.any id then (s, .eccUncorrectable, 0, data ++ leBytes ((lines.length + 7) / 8) (maskOf lines))
          else (s, .ok, 0, data)

end Sys2Proof.Machine
end

