-- ==== Sys2Proof/Machine/Sync.lean ====
section
/-! DEFINITION. Semaphore, fence, step and system instructions and the ends of their holds (R61 to R64, R68, R82, R174,
R199 to R202, R357, R365, R521). -/

namespace Sys2Proof.Machine

/-! ### Semaphores and fences -/

/-- A wait that is met: the count falls by k, the status goes to sd and back to OK (R63). -/
def CoreSt.semTake (c : CoreSt) (sd i k : Nat) : CoreSt :=
  let x := c.arch.semOf i
  let a := c.arch.setSem i { count := x.count - BitVec.ofNat 16 k, status := .ok }
  { c with arch := a.setS sd (BitVec.ofNat 64 x.status.code) }

/-- SEM.WAIT sd, sem, k (R63, R199). -/
def execSemWait (n : Core) (w : BitVec 48) (s : State) : Host.Outcome State Fault Refusal :=
  .next <| s.issue n (firstFail [(clear w 35 16, cResv)]) fun s =>
    let k := fImm16 w
    if k.toNat ≤ ((s.core n).arch.semOf (fSa w)).count.toNat then
      s.modCore n fun c => (c.semTake (fSd w) (fSa w) k.toNat).advance
    else s.modCore n fun c => { c with hold := .semWait (BitVec.ofNat 6 (fSd w)) (BitVec.ofNat 6 (fSa w)) k }

/-- The count has reached k: the waiting SEM.WAIT takes it and issue resumes (R63). -/
def execSemWaitSatisfied (n : Core) (s : State) : Host.Outcome State Fault Refusal :=
  .next <|
    match (s.core n).hold with
    | .semWait sd i k =>
      if s.live n && k.toNat ≤ ((s.core n).arch.semOf i.toNat).count.toNat then
        s.modCore n fun c => (c.semTake sd.toNat i.toNat k.toNat).advance
      else s
    | _ => s

/-- SEM.SIG sem: the count rises by 1 and the status stays; an overflow faults with 0x0C (R61, R199). -/
def execSemSig (n : Core) (w : BitVec 48) (s : State) : Host.Outcome State Fault Refusal :=
  .next <| s.issue n (firstFail [(clear w 47 42 && clear w 35 0, cResv)]) fun s =>
    let x := (s.core n).arch.semOf (fSa w)
    if x.count = BitVec.allOnes 16 then s.coreFault n 0x0C (s.core n).arch.pc
    else s.modCore n fun c =>
      ({ c with arch := c.arch.setSem (fSa w) { x with count := x.count + 1 } }).advance

/-- SEM.PEEK sd, sem: count in [15:0], status in [23:16] (R199). -/
def execSemPeek (n : Core) (w : BitVec 48) (s : State) : Host.Outcome State Fault Refusal :=
  .next <| s.issueSeq n (firstFail [(clear w 35 0, cResv)]) fun c =>
    let x := c.arch.semOf (fSa w)
    { c with arch := c.arch.setS (fSd w) (fields [(0, x.count.toNat), (16, x.status.code)]) }

/-- Whether every queue of a fence mask has completed (R64, R199). -/
def CoreSt.fenceMet (c : CoreSt) (m : Nat) : Bool :=
  let f := fun (i : Nat) (q : Queue) => m / 2 ^ i % 2 == 0 || q.idle
  f 0 c.mx && f 1 c.mv && f 2 c.vx && f 3 c.stq && f 4 c.cl

/-- FENCE mask (R64, R199). -/
def execFence (n : Core) (w : BitVec 48) (s : State) : Host.Outcome State Fault Refusal :=
  .next <| s.issue n (firstFail [(clear w 47 5, cResv)]) fun s =>
    let m := bitsOf w 4 0
    s.modCore n fun c => if c.fenceMet m then c.advance else { c with hold := .fence (BitVec.ofNat 5 m) }

/-- The named queues have completed and issue resumes (R64). -/
def execFenceComplete (n : Core) (s : State) : Host.Outcome State Fault Refusal :=
  .next <|
    match (s.core n).hold with
    | .fence m => if s.live n && (s.core n).fenceMet m.toNat then s.resume n id else s
    | _ => s

/-! ### The step vote (R82, R200, R357) -/

/-- Cause 0x08: STEP.VOTE or STEP.COMMIT inside a region (R75, R200). -/
def cStep : BitVec 8 := 0x08

/-- STEP.VOTE: stops issue until every queue has completed (R82, R200). -/
def execStepVote (n : Core) (w : BitVec 48) (s : State) : Host.Outcome State Fault Refusal :=
  .next (s.issueHold n (firstFail [(clear w 47 0, cResv), ((s.core n).region.isNone, cStep)]) fun _ => .stepVote)

/-- Contribute and clear the step flags; once the part has sent its flag contribution of the attempt they are held for
its seal (R82, R521). A core that is no voter contributes nothing. -/
def CoreSt.contribute (c : CoreSt) (sent : Bool) : CoreSt :=
  let c := if !c.isVoter then c
    else if sent then { c with flagsHeld := c.flagsHeld ||| c.flags }
    else { c with voteWord := c.voteWord ||| (c.flags &&& 0x7F).zeroExtend 16 }
  { c with flags := 0, updates := 0, voted := true, voteSince := true }

/-- Every queue has completed: the core contributes (R82, R521). -/
def execStepVoteContribute (n : Core) (s : State) : Host.Outcome State Fault Refusal :=
  .next <|
    if (s.core n).hold == .stepVote && s.live n && (s.core n).allIdle then
      (s.resume n fun c => c.contribute s.step.flagSent).pokeVote
    else s

/-- STEP.COMMIT sd: without a STEP.VOTE since the launch or the last STEP.COMMIT it writes ALREADY_DONE at once;
otherwise it stops issue until every queue has completed (R82, R200). -/
def execStepCommit (n : Core) (w : BitVec 48) (s : State) : Host.Outcome State Fault Refusal :=
  .next <| s.issue n (firstFail [(clear w 41 0, cResv), ((s.core n).region.isNone, cStep)]) fun s =>
    s.modCore n fun c =>
      if c.voteSince then { c with hold := .stepCommit (BitVec.ofNat 6 (fSd w)) }
      else ({ c with arch := c.arch.setS (fSd w) (BitVec.ofNat 64 Status.alreadyDone.code) }).advance

/-- The core seals: its flags and update bits go to the part's seal and are cleared (R357). -/
def CoreSt.sealStep (c : CoreSt) : CoreSt :=
  { c with sealWord := c.sealWord ||| (c.flags &&& 0x7F).zeroExtend 16 ||| updateBits c.updates, flags := 0
           updates := 0, voteSince := false }

/-- Every queue has completed: the core seals and waits for the decision. Where the attempt it voted in has been
decided already its seal reaches no round and it returns at once, after an abort with ABORTED and its rings, banks and heel
empty (R357, R364, R365). -/
def execStepCommitSeal (n : Core) (s : State) : Host.Outcome State Fault Refusal :=
  .next <|
    match (s.core n).hold with
    | .stepCommit sd =>
      if s.live n && (s.core n).allIdle then
        if (s.core n).voted then
          ((s.modCore n fun c =>
            let c := c.sealStep
            { c with sealed := true, hold := .commitWait sd, reg := { c.reg with run := .waiting } }).irq n.val).pokeVote
        else if (s.core n).ended then
          s.resume n fun c => { c.sealStep with sealWord := 0, arch := c.arch.setS sd.toNat 0 }
        else
          s.modCore n fun c => { c.sealStep with sealWord := 0, hold := .commitWait sd }.abortWait
      else s
    | _ => s

/-! ### System instructions (R201) -/

/-- SYS.NOP (R201). -/
def execSysNop (n : Core) (w : BitVec 48) (s : State) : Host.Outcome State Fault Refusal :=
  .next (s.issueSeq n (firstFail [(clear w 47 0, cResv)]) id)

/-- SYS.HALT imm16: waits for every queue (R68). -/
def execSysHalt (n : Core) (w : BitVec 48) (s : State) : Host.Outcome State Fault Refusal :=
  .next (s.issueHold n (firstFail [(clear w 47 16, cResv)]) fun _ => .halt (fImm16 w))

/-- Every queue has completed: halt_code, last_status OK, HALTED, and the core's interrupt (R68). -/
def execSysHaltComplete (n : Core) (s : State) : Host.Outcome State Fault Refusal :=
  .next <|
    match (s.core n).hold with
    | .halt imm =>
      if s.live n && (s.core n).allIdle then
        ((s.modCore n fun c =>
          { c with hold := .none, reg := { c.reg with run := .halted, haltCode := imm, lastStatus := .ok } }).irq
            n.val).pokeVote
      else s
    | _ => s

/-- SYS.REP sd: the repeat index of the open region, 0 outside one (R174). -/
def execSysRep (n : Core) (w : BitVec 48) (s : State) : Host.Outcome State Fault Refusal :=
  .next <| s.issueSeq n (firstFail [(clear w 41 0, cResv)]) fun c =>
    { c with arch := c.arch.setS (fSd w) (c.rep.zeroExtend 64) }

/-- The ACLK cycles since the accepted launch. -/
def CoreSt.cyc (c : CoreSt) : Word := BitVec.ofNat 64 (c.cycles / 100)

/-- SYS.CYC sd (R201). -/
def execSysCyc (n : Core) (w : BitVec 48) (s : State) : Host.Outcome State Fault Refusal :=
  .next <| s.issueSeq n (firstFail [(clear w 41 0, cResv)]) fun c =>
    { c with arch := c.arch.setS (fSd w) c.cyc }

/-- SYS.MARK imm16: the Awl writes a trace record (R201). -/
def execSysMark (n : Core) (w : BitVec 48) (s : State) : Host.Outcome State Fault Refusal :=
  .next <| s.issue n (firstFail [(clear w 47 16, cResv)]) fun s =>
    let c := s.core n
    let id : BitVec 16 := match c.region with
      | some g => g.id
      | none => 0xFFFF
    let r : TraceRec := { core := n, imm := fImm16 w, pc := c.arch.pc, region := id, cycles := c.cyc }
    ({ s with awl := { s.awl with trace := s.awl.trace ++ [r] } }).modCore n CoreSt.advance

end Sys2Proof.Machine
end

