-- ==== Sys2Proof/Machine/Dispatch.lean ====
section
/-! DEFINITION. The dispatch: one arm per command, one direct call of its meaning. -/

namespace Sys2Proof.Machine

/-- The effect of a command on everything but the queue. -/
def exec (i : Instr) (s : State) : Host.Outcome State Fault Refusal :=
  match i with
  | .sAdd n w => Sys2Proof.Machine.execSAdd n w s
  | .sSub n w => Sys2Proof.Machine.execSSub n w s
  | .sMul n w => Sys2Proof.Machine.execSMul n w s
  | .sAnd n w => Sys2Proof.Machine.execSAnd n w s
  | .sOr n w => Sys2Proof.Machine.execSOr n w s
  | .sXor n w => Sys2Proof.Machine.execSXor n w s
  | .sShl n w => Sys2Proof.Machine.execSShl n w s
  | .sShr n w => Sys2Proof.Machine.execSShr n w s
  | .sSar n w => Sys2Proof.Machine.execSSar n w s
  | .sMin n w => Sys2Proof.Machine.execSMin n w s
  | .sMax n w => Sys2Proof.Machine.execSMax n w s
  | .sMinu n w => Sys2Proof.Machine.execSMinu n w s
  | .sMaxu n w => Sys2Proof.Machine.execSMaxu n w s
  | .sAddi n w => Sys2Proof.Machine.execSAddi n w s
  | .sLi n w => Sys2Proof.Machine.execSLi n w s
  | .sLui n w => Sys2Proof.Machine.execSLui n w s
  | .sAndi n w => Sys2Proof.Machine.execSAndi n w s
  | .sOri n w => Sys2Proof.Machine.execSOri n w s
  | .sShli n w => Sys2Proof.Machine.execSShli n w s
  | .sShri n w => Sys2Proof.Machine.execSShri n w s
  | .sLdb n w e => Sys2Proof.Machine.execSLdb n w e s
  | .sLdh n w e => Sys2Proof.Machine.execSLdh n w e s
  | .sLdw n w e => Sys2Proof.Machine.execSLdw n w e s
  | .sLdd n w e => Sys2Proof.Machine.execSLdd n w e s
  | .sStb n w => Sys2Proof.Machine.execSStb n w s
  | .sSth n w => Sys2Proof.Machine.execSSth n w s
  | .sStw n w => Sys2Proof.Machine.execSStw n w s
  | .sStd n w => Sys2Proof.Machine.execSStd n w s
  | .pCmp n w => Sys2Proof.Machine.execPCmp n w s
  | .pCmpi n w => Sys2Proof.Machine.execPCmpi n w s
  | .pLog n w => Sys2Proof.Machine.execPLog n w s
  | .br n w => Sys2Proof.Machine.execBr n w s
  | .jr n w => Sys2Proof.Machine.execJr n w s
  | .call n w => Sys2Proof.Machine.execCall n w s
  | .callr n w => Sys2Proof.Machine.execCallr n w s
  | .instructionLineFetch n line e => Sys2Proof.Machine.execInstructionLineFetch n line e s
  | .issueQueuePlaceFreed n => Sys2Proof.Machine.execIssueQueuePlaceFreed n s
  | .semWait n w => Sys2Proof.Machine.execSemWait n w s
  | .semWaitSatisfied n => Sys2Proof.Machine.execSemWaitSatisfied n s
  | .semSig n w => Sys2Proof.Machine.execSemSig n w s
  | .semPeek n w => Sys2Proof.Machine.execSemPeek n w s
  | .fence n w => Sys2Proof.Machine.execFence n w s
  | .fenceComplete n => Sys2Proof.Machine.execFenceComplete n s
  | .lyrOpen n w => Sys2Proof.Machine.execLyrOpen n w s
  | .lyrOpenComplete n e => Sys2Proof.Machine.execLyrOpenComplete n e s
  | .lyrClose n w => Sys2Proof.Machine.execLyrClose n w s
  | .lyrCloseOutcome n => Sys2Proof.Machine.execLyrCloseOutcome n s
  | .stepVote n w => Sys2Proof.Machine.execStepVote n w s
  | .stepVoteContribute n => Sys2Proof.Machine.execStepVoteContribute n s
  | .stepCommit n w => Sys2Proof.Machine.execStepCommit n w s
  | .stepCommitSeal n => Sys2Proof.Machine.execStepCommitSeal n s
  | .sysNop n w => Sys2Proof.Machine.execSysNop n w s
  | .sysHalt n w => Sys2Proof.Machine.execSysHalt n w s
  | .sysHaltComplete n => Sys2Proof.Machine.execSysHaltComplete n s
  | .sysRep n w => Sys2Proof.Machine.execSysRep n w s
  | .sysCyc n w => Sys2Proof.Machine.execSysCyc n w s
  | .sysMark n w => Sys2Proof.Machine.execSysMark n w s
  | .engineInstructionStart n q hw => Sys2Proof.Machine.execEngineInstructionStart n q hw s
  | .stRing n w => Sys2Proof.Machine.execStRing n w s
  | .stDesc n w => Sys2Proof.Machine.execStDesc n w s
  | .stGo n w => Sys2Proof.Machine.execStGo n w s
  | .readRequestIssue n t => Sys2Proof.Machine.execReadRequestIssue n t s
  | .readReplyLand n tag uc e => Sys2Proof.Machine.execReadReplyLand n tag uc e s
  | .blockMoveToRing n x => Sys2Proof.Machine.execBlockMoveToRing n x s
  | .writeSlotTake n t e => Sys2Proof.Machine.execWriteSlotTake n t e s
  | .writeAcknowledge n tag uc => Sys2Proof.Machine.execWriteAcknowledge n tag uc s
  | .requestTimeLimit n tag => Sys2Proof.Machine.execRequestTimeLimit n tag s
  | .streamComplete n t => Sys2Proof.Machine.execStreamComplete n t s
  | .nmOpt n w => Sys2Proof.Machine.execNmOpt n w s
  | .nmGather n w => Sys2Proof.Machine.execNmGather n w s
  | .nmScatter n w => Sys2Proof.Machine.execNmScatter n w s
  | .nmShuffle n w => Sys2Proof.Machine.execNmShuffle n w s
  | .nmReduce n w => Sys2Proof.Machine.execNmReduce n w s
  | .nmQuant n w => Sys2Proof.Machine.execNmQuant n w s
  | .nmDequant n w => Sys2Proof.Machine.execNmDequant n w s
  | .nmAmax n w => Sys2Proof.Machine.execNmAmax n w s
  | .nmCommandStart n e => Sys2Proof.Machine.execNmCommandStart n e s
  | .stackProgressReport x => Sys2Proof.Machine.execStackProgressReport x s
  | .nmStackReport k e => Sys2Proof.Machine.execNmStackReport k e s
  | .nmStackSilenceTimeout n k => Sys2Proof.Machine.execNmStackSilenceTimeout n k s
  | .mxLoad n w => Sys2Proof.Machine.execMxLoad n w s
  | .mxPass n w => Sys2Proof.Machine.execMxPass n w s
  | .mxPassComplete n => Sys2Proof.Machine.execMxPassComplete n s
  | .mxAg n w => Sys2Proof.Machine.execMxAg n w s
  | .mxRs n w => Sys2Proof.Machine.execMxRs n w s
  | .fusedComplete n => Sys2Proof.Machine.execFusedComplete n s
  | .mxRstat n w => Sys2Proof.Machine.execMxRstat n w s
  | .mvDot n w => Sys2Proof.Machine.execMvDot n w s
  | .mvDotComplete n => Sys2Proof.Machine.execMvDotComplete n s
  | .vxChain n w => Sys2Proof.Machine.execVxChain n w s
  | .vxChainComplete n => Sys2Proof.Machine.execVxChainComplete n s
  | .vxPerm n w => Sys2Proof.Machine.execVxPerm n w s
  | .vxPerm2 n w => Sys2Proof.Machine.execVxPerm2 n w s
  | .vxShuf n w => Sys2Proof.Machine.execVxShuf n w s
  | .vxCmpr n w => Sys2Proof.Machine.execVxCmpr n w s
  | .vxExpd n w => Sys2Proof.Machine.execVxExpd n w s
  | .vxPack n w => Sys2Proof.Machine.execVxPack n w s
  | .vxUnpk n w => Sys2Proof.Machine.execVxUnpk n w s
  | .vxMset n w => Sys2Proof.Machine.execVxMset n w s
  | .vxSplat n w => Sys2Proof.Machine.execVxSplat n w s
  | .vxFlags n w => Sys2Proof.Machine.execVxFlags n w s
  | .clAr n w => Sys2Proof.Machine.execClAr n w s
  | .clRs n w => Sys2Proof.Machine.execClRs n w s
  | .clAg n w => Sys2Proof.Machine.execClAg n w s
  | .clA2a n w => Sys2Proof.Machine.execClA2a n w s
  | .clBc n w => Sys2Proof.Machine.execClBc n w s
  | .clBar n w => Sys2Proof.Machine.execClBar n w s
  | .collectiveStart n e d => Sys2Proof.Machine.execCollectiveStart n e d s
  | .chunkSend c key => Sys2Proof.Machine.execChunkSend c key s
  | .chunkWaitExpiry c key => Sys2Proof.Machine.execChunkWaitExpiry c key s
  | .creditBatchTimer c src => Sys2Proof.Machine.execCreditBatchTimer c src s
  | .chunkReceive p k => Sys2Proof.Machine.execChunkReceive p k s
  | .creditReceive p k => Sys2Proof.Machine.execCreditReceive p k s
  | .rereqReceive p k => Sys2Proof.Machine.execRereqReceive p k s
  | .ctrlArriveReceive p k => Sys2Proof.Machine.execCtrlArriveReceive p k s
  | .ctrlVoteReceive p k => Sys2Proof.Machine.execCtrlVoteReceive p k s
  | .ctrlAbortReceive p k => Sys2Proof.Machine.execCtrlAbortReceive p k s
  | .stepVoteReceive p k => Sys2Proof.Machine.execStepVoteReceive p k s
  | .stepSealReceive p k => Sys2Proof.Machine.execStepSealReceive p k s
  | .stepResendReceive p k => Sys2Proof.Machine.execStepResendReceive p k s
  | .stepDigestReceive p k => Sys2Proof.Machine.execStepDigestReceive p k s
  | .voteWaitExpiry peer => Sys2Proof.Machine.execVoteWaitExpiry peer s
  | .cleDecideCommit epoch attempt result => Sys2Proof.Machine.execCleDecideCommit epoch attempt result s
  | .cleDecideAbort epoch attempt result => Sys2Proof.Machine.execCleDecideAbort epoch attempt result s
  | .stackDecisionAct x => Sys2Proof.Machine.execStackDecisionAct x s
  | .commitFinish => Sys2Proof.Machine.execCommitFinish s
  | .epochSettle x => Sys2Proof.Machine.execEpochSettle x s
  | .inboundReadReceive p k => Sys2Proof.Machine.execInboundReadReceive p k s
  | .inboundWriteReceive p k => Sys2Proof.Machine.execInboundWriteReceive p k s
  | .inboundReplySend e => Sys2Proof.Machine.execInboundReplySend e s
  | .readRspReceive p k => Sys2Proof.Machine.execReadRspReceive p k s
  | .writeAckReceive p k => Sys2Proof.Machine.execWriteAckReceive p k s
  | .noticeReceive p k => Sys2Proof.Machine.execNoticeReceive p k s
  | .transitPacketReceive p k => Sys2Proof.Machine.execTransitPacketReceive p k s
  | .packetTransmit p e => Sys2Proof.Machine.execPacketTransmit p e s
  | .linkCreditReturn p vc => Sys2Proof.Machine.execLinkCreditReturn p vc s
  | .identityFrameSend p farLane farCsym => Sys2Proof.Machine.execIdentityFrameSend p farLane farCsym s
  | .identityFrameReceive p frame => Sys2Proof.Machine.execIdentityFrameReceive p frame s
  | .portTrainingComplete p mask => Sys2Proof.Machine.execPortTrainingComplete p mask s
  | .trainingTimeout p => Sys2Proof.Machine.execTrainingTimeout p s
  | .identifyTimeout p => Sys2Proof.Machine.execIdentifyTimeout p s
  | .autoRetrainTimer p => Sys2Proof.Machine.execAutoRetrainTimer p s
  | .laneLossOfLock p => Sys2Proof.Machine.execLaneLossOfLock p s
  | .fecErrorLimit x => Sys2Proof.Machine.execFecErrorLimit x s
  | .fabLaneApply => Sys2Proof.Machine.execFabLaneApply s
  | .fabClrCnt => Sys2Proof.Machine.execFabClrCnt s
  | .fabInjectStop on => Sys2Proof.Machine.execFabInjectStop on s
  | .fabTopoWrite v => Sys2Proof.Machine.execFabTopoWrite v s
  | .fabFenceSet token => Sys2Proof.Machine.execFabFenceSet token s
  | .fabFenceClear token => Sys2Proof.Machine.execFabFenceClear token s
  | .fabNoticeWrite v => Sys2Proof.Machine.execFabNoticeWrite v s
  | .fabFtblWrite k v => Sys2Proof.Machine.execFabFtblWrite k v s
  | .fabLastWrite p v => Sys2Proof.Machine.execFabLastWrite p v s
  | .fabPortRetrain p => Sys2Proof.Machine.execFabPortRetrain p s
  | .fabPortIdent p => Sys2Proof.Machine.execFabPortIdent p s
  | .fabPortDisable p on => Sys2Proof.Machine.execFabPortDisable p on s
  | .wltApply => Sys2Proof.Machine.execWltApply s
  | .wltClrCnt => Sys2Proof.Machine.execWltClrCnt s
  | .wltClrPeak => Sys2Proof.Machine.execWltClrPeak s
  | .weltBlockGrant c => Sys2Proof.Machine.execWeltBlockGrant c s
  | .weltScrubBeat bank e => Sys2Proof.Machine.execWeltScrubBeat bank e s
  | .insApply => Sys2Proof.Machine.execInsApply s
  | .insReset k clear => Sys2Proof.Machine.execInsReset k clear s
  | .stackResetReturn k => Sys2Proof.Machine.execStackResetReturn k s
  | .insClrCnt k => Sys2Proof.Machine.execInsClrCnt k s
  | .insScrubLine k line e => Sys2Proof.Machine.execInsScrubLine k line e s
  | .rowSpare k spareLeft => Sys2Proof.Machine.execRowSpare k spareLeft s
  | .stackRefresh k => Sys2Proof.Machine.execStackRefresh k s
  | .stackThrottleChange k temp => Sys2Proof.Machine.execStackThrottleChange k temp s
  | .stackChannelRecal k ch => Sys2Proof.Machine.execStackChannelRecal k ch s
  | .fabricLaneRecal p => Sys2Proof.Machine.execFabricLaneRecal p s
  | .coreLaunchStart n level voter => Sys2Proof.Machine.execCoreLaunchStart n level voter s
  | .coreLaunchStop n => Sys2Proof.Machine.execCoreLaunchStop n s
  | .coreStopQuiesced n => Sys2Proof.Machine.execCoreStopQuiesced n s
  | .coreSrkeyWrite n v => Sys2Proof.Machine.execCoreSrkeyWrite n v s
  | .coreSrepochWrite n v => Sys2Proof.Machine.execCoreSrepochWrite n v s
  | .insSrkeyWrite k v => Sys2Proof.Machine.execInsSrkeyWrite k v s
  | .insSrepochWrite k v => Sys2Proof.Machine.execInsSrepochWrite k v s
  | .cleApply cdef => Sys2Proof.Machine.execCleApply cdef s
  | .cleClrCnt => Sys2Proof.Machine.execCleClrCnt s
  | .cleStepcfgWrite grp v => Sys2Proof.Machine.execCleStepcfgWrite grp v s
  | .cleShadowModeWrite mode => Sys2Proof.Machine.execCleShadowModeWrite mode s
  | .awlRewind => Sys2Proof.Machine.execAwlRewind s
  | .ingGo => Sys2Proof.Machine.execIngGo s
  | .ingStop => Sys2Proof.Machine.execIngStop s
  | .ingResume => Sys2Proof.Machine.execIngResume s
  | .ingClrCnt => Sys2Proof.Machine.execIngClrCnt s
  | .ingPortReset p => Sys2Proof.Machine.execIngPortReset p s
  | .roceResponseReceive c data ce => Sys2Proof.Machine.execRoceResponseReceive c data ce s
  | .rdmaReadSend c => Sys2Proof.Machine.execRdmaReadSend c s
  | .roceRetryTimeout c => Sys2Proof.Machine.execRoceRetryTimeout c s
  | .rdmaRequestReceive x => Sys2Proof.Machine.execRdmaRequestReceive x s
  | .ccFrameReceive p frame => Sys2Proof.Machine.execCcFrameReceive p frame s
  | .ccFrameTransmit => Sys2Proof.Machine.execCcFrameTransmit s
  | .pfcFrameReceive p prios time => Sys2Proof.Machine.execPfcFrameReceive p prios time s
  | .ethernetFrameDiscard x => Sys2Proof.Machine.execEthernetFrameDiscard x s
  | .lldpSend p => Sys2Proof.Machine.execLldpSend p s
  | .ethernetLinkChange p up => Sys2Proof.Machine.execEthernetLinkChange p up s
  | .segmentDecodeComplete d => Sys2Proof.Machine.execSegmentDecodeComplete d s
  | .batchReady => Sys2Proof.Machine.execBatchReady s
  | .loaderPositionWrite => Sys2Proof.Machine.execLoaderPositionWrite s
  | .ctxRingWrite tx v => Sys2Proof.Machine.execCtxRingWrite tx v s
  | .ctxRxidxTailWrite v => Sys2Proof.Machine.execCtxRxidxTailWrite v s
  | .ctxTxidxTailWrite v => Sys2Proof.Machine.execCtxTxidxTailWrite v s
  | .ctxReset => Sys2Proof.Machine.execCtxReset s
  | .ccMemoryAccess h a => Sys2Proof.Machine.execCcMemoryAccess h a s
  | .clkJobEnter => Sys2Proof.Machine.execClkJobEnter s
  | .clkJobLeave => Sys2Proof.Machine.execClkJobLeave s
  | .clkFreqWrite cclk aclk => Sys2Proof.Machine.execClkFreqWrite cclk aclk s
  | .clkClupolWrite v => Sys2Proof.Machine.execClkClupolWrite v s
  | .clkTimeWrite v => Sys2Proof.Machine.execClkTimeWrite v s
  | .clkTstepWrite v => Sys2Proof.Machine.execClkTstepWrite v s
  | .clockLimitStep => Sys2Proof.Machine.execClockLimitStep s
  | .clusterClockGate c => Sys2Proof.Machine.execClusterClockGate c s
  | .clusterPowerGate c => Sys2Proof.Machine.execClusterPowerGate c s
  | .clusterWake c => Sys2Proof.Machine.execClusterWake c s
  | .rrefLoss => Sys2Proof.Machine.execRrefLoss s
  | .pllLockLoss => Sys2Proof.Machine.execPllLockLoss s
  | .awlFreezeWrite => Sys2Proof.Machine.execAwlFreezeWrite s
  | .frzNRelease => Sys2Proof.Machine.execFrzNRelease s
  | .frzNLow => Sys2Proof.Machine.execFrzNLow s
  | .powerOnReset => Sys2Proof.Machine.execPowerOnReset s
  | .v33Loss => Sys2Proof.Machine.execV33Loss s
  | .rstNAssert => Sys2Proof.Machine.execRstNAssert s
  | .rstNRelease => Sys2Proof.Machine.execRstNRelease s
  | .startUpSequence env => Sys2Proof.Machine.execStartUpSequence env s
  | .startUpRetry env => Sys2Proof.Machine.execStartUpRetry env s
  | .sensorSample x => Sys2Proof.Machine.execSensorSample x s
  | .voltageComparatorTrip r => Sys2Proof.Machine.execVoltageComparatorTrip r s
  | .cobblerLockstepMismatch => Sys2Proof.Machine.execCobblerLockstepMismatch s
  | .cobblerBoot => Sys2Proof.Machine.execCobblerBoot s
  | .healthRecordFlush => Sys2Proof.Machine.execHealthRecordFlush s
  | .eventMirrorWrite => Sys2Proof.Machine.execEventMirrorWrite s
  | .awlHeldRecordDelivery => Sys2Proof.Machine.execAwlHeldRecordDelivery s
  | .mgmtSessionConnect cert => Sys2Proof.Machine.execMgmtSessionConnect cert s
  | .mgmtUnknownCommand c code tag => Sys2Proof.Machine.execMgmtUnknownCommand c code tag s
  | .getInfo c tag => Sys2Proof.Machine.execGetInfo c tag s
  | .getQuote c tag nonce => Sys2Proof.Machine.execGetQuote c tag nonce s
  | .getCerts c tag => Sys2Proof.Machine.execGetCerts c tag s
  | .readLog c tag seq => Sys2Proof.Machine.execReadLog c tag seq s
  | .readSensors c tag => Sys2Proof.Machine.execReadSensors c tag s
  | .readHealth c tag => Sys2Proof.Machine.execReadHealth c tag s
  | .fwWrite c tag offset data => Sys2Proof.Machine.execFwWrite c tag offset data s
  | .fwVerify c tag => Sys2Proof.Machine.execFwVerify c tag s
  | .fwActivate c tag => Sys2Proof.Machine.execFwActivate c tag s
  | .fwCommit c tag => Sys2Proof.Machine.execFwCommit c tag s
  | .fwLock c tag => Sys2Proof.Machine.execFwLock c tag s
  | .fwRevoke c tag slot => Sys2Proof.Machine.execFwRevoke c tag slot s
  | .fuseGen c tag block good => Sys2Proof.Machine.execFuseGen c tag block good s
  | .setLast c tag entries => Sys2Proof.Machine.execSetLast c tag entries s
  | .measure c tag m digest => Sys2Proof.Machine.execMeasure c tag m digest s
  | .resetUnit c tag u => Sys2Proof.Machine.execResetUnit c tag u s
  | .power c tag on => Sys2Proof.Machine.execPower c tag on s
  | .selfTest c tag t pass => Sys2Proof.Machine.execSelfTest c tag t pass s
  | .freeze c tag => Sys2Proof.Machine.execFreeze c tag s
  | .readFrozen c tag space u offset len bad => Sys2Proof.Machine.execReadFrozen c tag space u offset len bad s
  | .cblDoorbell => Sys2Proof.Machine.execCblDoorbell s
  | .cblAck => Sys2Proof.Machine.execCblAck s
  | .unitResetSettleEnd u => Sys2Proof.Machine.execUnitResetSettleEnd u s
  | .unitResetReturn u => Sys2Proof.Machine.execUnitResetReturn u s
  | .settleTimeout u => Sys2Proof.Machine.execSettleTimeout u s
  | .stackReturnTimeout k => Sys2Proof.Machine.execStackReturnTimeout k s
  | .registerWrite addr v => Sys2Proof.Machine.execRegisterWrite addr v s
  | .pfcPauseExpiry p prios => Sys2Proof.Machine.execPfcPauseExpiry p prios s
  | .clusterWakeComplete c => Sys2Proof.Machine.execClusterWakeComplete c s
  | .ingPortDisable p on => Sys2Proof.Machine.execIngPortDisable p on s

end Sys2Proof.Machine
end

