-- ==== Sys2Proof/Machine/Tick.lean ====
section
/-! DEFINITION. What passes with time: one period of the time counter's clock (R462, R463, R465). -/

namespace Sys2Proof.Machine

/-- What the counter adds at one RREF cycle, in 2^-32 ns: 6.4 ns × (1 + adj × 2^-40) lies between two such steps, and
which of them is added is open (R465). -/
def rrefStep (adj : BitVec 32) (u : BitVec 64) : Nat :=
  let num := 32 * 2 ^ 32 * ((2 ^ 40 : Int) + adj.toInt)
  let den : Int := 5 * 2 ^ 40
  (num / den).toNat + (if num % den = 0 then 0 else u.toNat % 2)

/-- ACLK pulses of 16 delivered: the smaller of the runtime's count, brought into 8 to 16, and Cobbler's (R463, R478). -/
def Clocks.pulses (k : Clocks) : Nat := min (max 8 (min 16 k.aclk.toNat)) k.aclkLim.toNat

/-- The corrected FEC code words of an Ethernet port that is up, in thousands: how many a period adds is open (R415). -/
def EthPort.corrected (p : EthPort) (x : BitVec 64) : EthPort :=
  if p.up then { p with fecCorr := satAdd p.fecCorr (x.toNat % 2) } else p

/-- One period passes: from RREF once locked, with the ACLK cycles of the cores that run and the flow control of the Ethernet
ports, else from AOCLK (R386, R465). -/
def State.tick (s : State) : State :=
  if s.clk.state == .off && s.clk.upStep == 0 then s
  else if s.clk.locked then
    let (i, s) := s.freshN 2
    let step := rrefStep s.clk.adj (Config.free i)
    let s := { s with clk := { s.clk with time := s.clk.time + BitVec.ofNat 96 step } }
    if s.fastOn then
      let more := 76 * s.clk.pulses
      ({ s with cores := s.cores.map fun (c : CoreSt) => if c.busy then { c with cycles := c.cycles + more } else c
                ing := { s.ing with port := s.ing.port.map fun (p : EthPort) => p.corrected (Config.free (i + 1)) } }).flowControl
    else s
  else { s with clk := { s.clk with time := s.clk.time + BitVec.ofNat 96 (40 * 2 ^ 32) } }

end Sys2Proof.Machine
end

