-- ==== Sys2Proof/WellFormed.lean ====
section
/-! DEFINITION. Which commands are well formed: the bounds the spec sets on operands that the types leave open. -/

namespace Sys2Proof

/-- A packet carries at most 4,096 bytes of payload (R296). -/
def Packet.wf (k : Packet) : Bool := k.payload.length ≤ 4096

/-- An access moves 1, 2, 4 or 8 bytes (R417). -/
def Access.wf (a : Access) : Bool := a.bytes == 1 || a.bytes == 2 || a.bytes == 4 || a.bytes == 8

/-- A decoded plane has as many samples as its size says, and a picture no empty plane (R399). -/
def Picture.wf (p : Picture) : Bool :=
  [p.luma, p.cb, p.cr].all fun x => x.x.length == x.w * x.h && x.w != 0 && x.h != 0

/-- The operand bounds of a command. -/
def Instr.wf (i : Instr) : Bool :=
  match i with
  | .chunkReceive _ k | .creditReceive _ k | .rereqReceive _ k | .ctrlArriveReceive _ k | .ctrlVoteReceive _ k
  | .ctrlAbortReceive _ k | .stepVoteReceive _ k | .stepSealReceive _ k | .stepResendReceive _ k
  | .stepDigestReceive _ k | .inboundReadReceive _ k | .inboundWriteReceive _ k | .readRspReceive _ k
  | .writeAckReceive _ k | .noticeReceive _ k | .transitPacketReceive _ k => k.wf
  | .identityFrameReceive _ f => f.length == 24
  | .ccMemoryAccess _ a => a.wf
  | .segmentDecodeComplete d => d.pictures.all Picture.wf
  | .sensorSample x => x.diodes.length == 64 && x.stack.length == 24 && x.volts.length == 40
  | .getQuote _ _ nonce => nonce.length == 64
  | .fwWrite _ _ _ data => 0 < data.length && data.length ≤ 65536
  | .fwRevoke _ _ k => k < 4
  | .measure _ _ m d => 4 ≤ m && m ≤ 7 && d.length == 64
  | .readFrozen _ _ _ _ _ len _ => len ≤ 65536
  | _ => true

end Sys2Proof
end

