-- ==== Sys2Proof/Safety.lean ====
section
/-! DEFINITION. What statements mean by a safe run and by "nothing else changes": steps that answer next states, the
canonical form of every memory, frames, and the ways an instruction of a core ends. -/

namespace Sys2Proof

open Sys2Proof.Machine

/-- The step of a state answers a next state. -/
def Goes (s : State) : Prop := ∃ t, step s = Host.Outcome.next t

/-- Every memory of the part is in its canonical form. -/
def MemoriesWf (s : State) : Prop :=
  s.welt.mem.wf = true ∧ (∀ k : StackId, (s.stack[k]).dram.wf = true) ∧
    ∀ n : Core, (s.cores[n]).arch.scratch.wf = true ∧ (s.cores[n]).arch.heel.wf = true

/-! ### Frames -/

/-- Nothing but core n differs between s and t. -/
def OnlyCore (n : Core) (s t : State) : Prop :=
  t = { s with cores := t.cores } ∧ ∀ m : Core, m ≠ n → t.core m = s.core m

/-- Nothing but stack k differs between s and t. -/
def OnlyStack (k : StackId) (s t : State) : Prop :=
  t = { s with stack := t.stack } ∧ ∀ j : StackId, j ≠ k → t.stack[j] = s.stack[j]

/-- Nothing but fabric port p differs between s and t. -/
def OnlyPort (p : Port) (s t : State) : Prop :=
  t = { s with fab := { s.fab with port := t.fab.port } } ∧ ∀ q : Port, q ≠ p → t.fab.port[q] = s.fab.port[q]

/-- Core d is core c gone on to the instruction at pc with program-visible state a: issue is held for the line of pc where
the instruction buffer lacks it, and nothing else of the core differs (R53, R57). -/
def GoesOn (c d : CoreSt) (a : CoreArch) (pc : Word) : Prop :=
  d = { c with
    arch := { a with pc := pc }
    hold := if c.ibuf.contains ((pc >>> 6).truncate 58) then .none else .line ((pc >>> 6).truncate 58) }

/-- b is a with v in scalar d: every other scalar and everything else is as in a, and a write to s0 is discarded (R52). -/
def ScalarSet (a b : CoreArch) (d : Nat) (v : Word) : Prop :=
  b = { a with s := b.s } ∧ ∀ j < 64, b.sreg j = if j = d ∧ d ≠ 0 then v else a.sreg j

/-- b is a with v in predicate d; a write to p0 is discarded (R52). -/
def PredSet (a b : CoreArch) (d : Nat) (v : Bool) : Prop :=
  b = { a with p := b.p } ∧ ∀ j < 8, b.pred j = if j = d ∧ d ≠ 0 then v else a.pred j

/-- b is a with x in semaphore i. -/
def SemSet (a b : CoreArch) (i : Nat) (x : Sem) : Prop :=
  b = { a with sem := b.sem } ∧ ∀ j < 64, b.semOf j = if j = i then x else a.semOf j

/-- Core d is core c with the instruction e placed at the end of queue q and, where e is a fused instruction, its
collective side at the end of the CL queue; nothing else differs (R57, R217). -/
def Placed (c d : CoreSt) (q : QueueId) (e : QEntry) : Prop :=
  d = { c with mx := d.mx, mv := d.mv, vx := d.vx, stq := d.stq, cl := d.cl } ∧
  ∀ r : QueueId, (d.queue r).running = (c.queue r).running ∧ (d.queue r).waiting =
    if r = q then (c.queue r).waiting ++ [e]
    else if r = .cl ∧ e.op = .mxAg then (c.queue r).waiting ++ [{ e with op := .agSide }]
    else if r = .cl ∧ e.op = .mxRs then (c.queue r).waiting ++ [{ e with op := .rsSide }]
    else (c.queue r).waiting

/-! ### How an instruction of a core ends -/

/-- The instruction i of core n ends in its issue cycle and leaves program-visible state b, of which P holds; the core goes
on at the next instruction, and nothing else changes. -/
def EndsWith (i : Instr) (s : State) (n : Core) (P : CoreArch → Prop) : Prop :=
  ∃ t b, exec i s = Host.Outcome.next t ∧ OnlyCore n s t ∧ P b ∧
    GoesOn (s.core n) (t.core n) b ((s.core n).arch.pc + 8)

/-- The instruction i of core n faults the core with a cause at its own address: FAULTED, fault_cause, CORE_FAULT and the
core_fault flag, with the scalars and predicates kept (R75). -/
def FaultsWith (i : Instr) (s : State) (n : Core) (cause : BitVec 8) : Prop :=
  ∃ t, exec i s = Host.Outcome.next t ∧ (t.core n).reg.run = .faulted ∧ (t.core n).reg.faultCause = cause ∧
    (t.core n).reg.faultPc = ((s.core n).arch.pc >>> 3).truncate 61 ∧ bitOf (t.core n).reg.health 5 = true ∧
    (t.core n).arch.s = (s.core n).arch.s ∧ (t.core n).arch.p = (s.core n).arch.p

/-- The instruction i of core n holds issue with h, and nothing else changes (R202). -/
def HoldsIssue (i : Instr) (s : State) (n : Core) (h : Hold) : Prop :=
  ∃ t, exec i s = Host.Outcome.next t ∧ OnlyCore n s t ∧ t.core n = { s.core n with hold := h }

/-! ### Engine instructions -/

/-- No instruction of core n runs in its matrix engine, Shank path or vector engine, and none of its collectives is
active. -/
def NothingStarted (s : State) (n : Core) : Prop :=
  (s.core n).mx.running = [] ∧ (s.core n).mv.running = [] ∧ (s.core n).vx.running = [] ∧
    ∀ a ∈ s.coll.active, a.core ≠ n

/-- The semaphores of b are those of a after the instruction e has started and completed with OK: its wait count is
subtracted, and its signal adds 1 (R61, R62). -/
def SemsAfter (a b : CoreArch) (e : QEntry) : Prop :=
  ∀ j < 64, b.semOf j =
    { count := (a.semOf j).count - (if j = tailWsem e.w then BitVec.ofNat 16 (tailWcnt e.w) else 0) +
        (if tailSen e.w = true ∧ j = tailSsem e.w then 1 else 0)
      status := (a.semOf j).status }

/-- The signal of e, made after its wait count is subtracted, stays within 65,535. -/
def SignalFits (a : CoreArch) (e : QEntry) : Prop :=
  tailSen e.w = true →
    (a.semOf (tailSsem e.w)).count - (if tailSsem e.w = tailWsem e.w then BitVec.ofNat 16 (tailWcnt e.w) else 0) ≠ 65535

/-- Core d is core c with the head of queue q gone and program-visible state b: nothing else differs. -/
def HeadGone (c d : CoreSt) (q : QueueId) (rest : List QEntry) (b : CoreArch) : Prop :=
  d = { c with arch := b, mx := d.mx, mv := d.mv, vx := d.vx, stq := d.stq, cl := d.cl } ∧
  ∀ r : QueueId, d.queue r = if r = q then { waiting := rest, running := (c.queue r).running } else c.queue r

/-! ### Completion and signals -/

/-- The semaphores of b are those of a after the instruction e has signalled st: where it signals, its semaphore counts 1
more and keeps its first status that is not OK (R61). -/
def Signalled (a b : CoreArch) (e : QEntry) (st : Status) : Prop :=
  ∀ j < 64, b.semOf j =
    if tailSen e.w = true ∧ j = tailSsem e.w then
      { count := (a.semOf j).count + 1, status := if (a.semOf j).status = .ok then st else (a.semOf j).status }
    else a.semOf j

/-- The signal of e has room in its semaphore. -/
def SignalRoom (a : CoreArch) (e : QEntry) : Prop := tailSen e.w = true → (a.semOf (tailSsem e.w)).count ≠ 65535

/-- The command i completes the instruction e of core n with st: it signals, its health and step flags and those of flag are
set, the rings it held are released, and no memory, register or other unit changes (R61, R73, R148). -/
def Completes (i : Instr) (s : State) (n : Core) (e : QEntry) (st : Status) (flag : BitVec 8) : Prop :=
  ∃ t, exec i s = Host.Outcome.next t ∧ OnlyCore n s t ∧
    let c := s.core n
    let d := t.core n
    Signalled c.arch d.arch e st ∧ d.flags = c.flags ||| flag ||| st.flag ∧
      d.reg = { c.reg with health := c.reg.health ||| flag ||| st.flag } ∧ d.hold = c.hold ∧
      d.arch = { c.arch with sem := d.arch.sem, ring := d.arch.ring } ∧
      (∀ i < 16, (d.arch.ringOf i).prod ≠ some e.id ∧ (d.arch.ringOf i).cons ≠ some e.id) ∧
      ∀ q : QueueId, (d.queue q).waiting = (c.queue q).waiting ∧ ∀ x ∈ (d.queue q).running, x ∈ (c.queue q).running

/-! ### Packets -/

/-- A packet of this part for dst leaves by port p, which is UP: neither part is fenced (R295, R302, R311, R312). -/
def MaySend (s : State) (dst : Coord) (p : Port) : Prop :=
  s.fab.fenced = false ∧ s.fencedCoord dst = false ∧ s.fencedCoord s.coord = false ∧ s.clk.state ≠ .fault ∧
    s.route dst = some p ∧ s.fab.port[p].state = .up

/-- The packet k as it waits for port p: on the channel of its class and of the dateline of its first hop (R305). -/
def Injected (s : State) (p : Port) (k : Packet) : Nat × Nat × Packet :=
  (p.val, channel k.cls.toNat (s.crosses p), { k with dl := s.crosses p })

end Sys2Proof
end

