-- ==== Sys2Proof/Certificates/Slice0/Obligations.lean ====
section
/-! DEFINITION. The statements for the provers. Each says what the rules named in OBLIGATIONS.json say. -/

open Sys2Proof Sys2Proof.Machine

/-! ### The queue of commands -/

/-- A step with a command in front runs it on the state with the rest of the queue.
The model's choice it rests on is log entry 2. -/
def Obligations.StepRunsTheFrontCommand : Prop :=
  ∀ (c : Instr) (rest : List Instr) (s : State), s.pending = c :: rest →
    step s = exec c { s with pending := rest }

/-- A command leaves the queue of waiting commands as it is.
The model's choice it rests on is log entry 2. -/
def Obligations.CommandsLeaveTheQueue : Prop :=
  ∀ (c : Instr) (s t : State), exec c s = Host.Outcome.next t → t.pending = s.pending

/-! ### Scalar arithmetic (R195) -/

/-- The register forms of R195 with what they put into sd. -/
def Sys2Proof.registerOps : List ((Core → BitVec 48 → Instr) × (Word → Word → Word)) :=
  [(.sAdd, fun a b => a + b), (.sSub, fun a b => a - b), (.sMul, fun a b => a * b), (.sAnd, fun a b => a &&& b),
   (.sOr, fun a b => a ||| b), (.sXor, fun a b => a ^^^ b), (.sShl, fun a b => a <<< (b.toNat % 64)),
   (.sShr, fun a b => a >>> (b.toNat % 64)), (.sSar, fun a b => a.sshiftRight (b.toNat % 64)),
   (.sMin, fun a b => if a.toInt ≤ b.toInt then a else b), (.sMax, fun a b => if a.toInt ≤ b.toInt then b else a),
   (.sMinu, fun a b => if a.toNat ≤ b.toNat then a else b), (.sMaxu, fun a b => if a.toNat ≤ b.toNat then b else a)]

/-- The immediate forms of R195: which words they accept beyond clear reserved bits, and what they put into sd. -/
def Sys2Proof.immediateOps : List ((Core → BitVec 48 → Instr) × (BitVec 48 → Bool) × (BitVec 48 → Word → Word)) :=
  [(.sAddi, fun _ => true, fun w a => a + fImmS w), (.sLi, fun w => bitsOf w 41 36 == 0, fun w _ => fImmS w),
   (.sLui, fun _ => true, fun w a => (fImmU w <<< 32) ||| (a &&& 0xFFFFFFFF)),
   (.sAndi, fun _ => true, fun w a => a &&& fImmU w), (.sOri, fun _ => true, fun w a => a ||| fImmU w),
   (.sShli, fun w => decide (bitsOf w 31 0 ≤ 63), fun w a => a <<< bitsOf w 31 0),
   (.sShri, fun w => decide (bitsOf w 31 0 ≤ 63), fun w a => a >>> bitsOf w 31 0)]

/-- Every form of R195 on a core that issues: with its reserved bits clear it puts its value into sd, s0 discarding it, and
changes nothing else; with a reserved bit set, an sa named by S.LI or a shift above 63 it faults with cause 0x02. -/
def Obligations.ScalarArithmetic : Prop :=
  ∀ (n : Core) (w : BitVec 48) (s : State), s.canIssue n = true →
    (∀ p ∈ registerOps,
      let a := (s.core n).arch
      if bitsOf w 29 0 = 0 then
        EndsWith (p.1 n w) s n fun b => ScalarSet a b (bitsOf w 47 42) (p.2 (a.sreg (bitsOf w 41 36)) (a.sreg (bitsOf w 35 30)))
      else FaultsWith (p.1 n w) s n 0x02) ∧
    ∀ p ∈ immediateOps,
      let a := (s.core n).arch
      if bitsOf w 35 32 = 0 ∧ p.2.1 w = true then
        EndsWith (p.1 n w) s n fun b => ScalarSet a b (bitsOf w 47 42) (p.2.2 w (a.sreg (bitsOf w 41 36)))
      else FaultsWith (p.1 n w) s n 0x02

/-! ### Scalar memory (R196) -/

/-- The loads of R196 with their sizes. -/
def Sys2Proof.loadOps : List ((Core → BitVec 48 → Ecc → Instr) × Nat) := [(.sLdb, 1), (.sLdh, 2), (.sLdw, 4), (.sLdd, 8)]

/-- The stores of R196 with their sizes. -/
def Sys2Proof.storeOps : List ((Core → BitVec 48 → Instr) × Nat) := [(.sStb, 1), (.sSth, 2), (.sStw, 4), (.sStd, 8)]

/-- The byte offset sa + sext(imm32) of a scalar memory instruction. -/
def Sys2Proof.scalarOffset (a : CoreArch) (w : BitVec 48) : Nat := (a.sreg (bitsOf w 41 36) + fImmS w).toNat

/-- A load puts the bytes at its offset into sd, extended with zeros, and changes nothing else, where its word is sound;
where the code finds an uncorrectable error, or the word is poisoned, it leaves sd, sets the ecc flag, and makes an open
region dirty; an offset above 0x7F_FFFF faults with cause 0x0D, and a misaligned one with 0x04. -/
def Sys2Proof.LoadsAct : Prop :=
  ∀ (n : Core) (w : BitVec 48) (s : State), s.canIssue n = true → bitsOf w 35 32 = 0 → ∀ p ∈ loadOps,
    let a := (s.core n).arch
    let o := scalarOffset a w
    if o > 0x7FFFFF then ∀ e, FaultsWith (p.1 n w e) s n 0x0D
    else if o % p.2 ≠ 0 then ∀ e, FaultsWith (p.1 n w e) s n 0x04
    else
      (∀ e, e = .uncorrectable ∨ o / 16 ∈ a.scratchPoison →
        ∃ t, exec (p.1 n w e) s = Host.Outcome.next t ∧ (∀ m, m ≠ n → t.core m = s.core m) ∧
          (t.core n).arch = { a with scratchPoison := (t.core n).arch.scratchPoison, pc := a.pc + 8 } ∧
          bitOf (t.core n).flags 4 = true ∧ bitOf (t.core n).reg.health 4 = true ∧
          ∀ g, (t.core n).region = some g → g.outcome = 3) ∧
      (o / 16 ∉ a.scratchPoison →
        EndsWith (p.1 n w .clean) s n fun b => ScalarSet a b (bitsOf w 47 42)
          (BitVec.ofNat 64 (leNat ((List.range p.2).map fun i => a.scratch.read (o + i)))))

/-- A store puts the low bytes of sd at its offset and changes no other byte and no register; into a poisoned word it is
made, the word stays poisoned, the ecc flag is set, and an open region becomes dirty. -/
def Sys2Proof.StoresAct : Prop :=
  ∀ (n : Core) (w : BitVec 48) (s : State), MemoriesWf s → s.canIssue n = true → bitsOf w 35 32 = 0 → ∀ p ∈ storeOps,
    let a := (s.core n).arch
    let o := scalarOffset a w
    if o > 0x7FFFFF then FaultsWith (p.1 n w) s n 0x0D
    else if o % p.2 ≠ 0 then FaultsWith (p.1 n w) s n 0x04
    else ∃ t, exec (p.1 n w) s = Host.Outcome.next t ∧ OnlyCore n s t ∧
      (t.core n).arch = { a with scratch := (t.core n).arch.scratch, pc := a.pc + 8 } ∧
      (∀ j, (t.core n).arch.scratch.read j =
        if o ≤ j ∧ j < o + p.2 then BitVec.ofNat 8 ((a.sreg (bitsOf w 47 42)).toNat / 2 ^ (8 * (j - o)))
        else a.scratch.read j) ∧
      (if o / 16 ∈ a.scratchPoison then
        bitOf (t.core n).flags 4 = true ∧ bitOf (t.core n).reg.health 4 = true ∧
          ∀ g, (t.core n).region = some g → g.outcome = 3
      else (t.core n).flags = (s.core n).flags ∧ (t.core n).reg = (s.core n).reg ∧ (t.core n).region = (s.core n).region)

/-- The loads and the stores of R196.
The model's choices it rests on are log entries 12, 13. -/
def Obligations.ScalarMemory : Prop := LoadsAct ∧ StoresAct

/-! ### Predicates and branches (R197, R198) -/

/-- The conditions of R197 by code. -/
def Sys2Proof.condition (cc : Nat) (a b : Word) : Prop :=
  match cc with
  | 0 => a = b
  | 1 => a ≠ b
  | 2 => a.toInt < b.toInt
  | 3 => b.toInt ≤ a.toInt
  | 4 => a.toNat < b.toNat
  | _ => b.toNat ≤ a.toNat

/-- P.CMP, P.CMPI and P.LOG put their result into pd, p0 discarding it, and change nothing else; a condition code above 5
faults with cause 0x02. -/
def Sys2Proof.PredicatesAct : Prop :=
  ∀ (n : Core) (w : BitVec 48) (s : State), s.canIssue n = true →
    let a := (s.core n).arch
    let cc := bitsOf w 38 35
    (bitsOf w 44 39 = 0 → bitsOf w 22 0 = 0 →
      if cc ≤ 5 then
        EndsWith (.pCmp n w) s n fun b => ∃ v, PredSet a b (bitsOf w 47 45) v ∧
          (v = true ↔ condition cc (a.sreg (bitsOf w 34 29)) (a.sreg (bitsOf w 28 23)))
      else FaultsWith (.pCmp n w) s n 0x02) ∧
    (bitsOf w 44 39 = 0 → bitsOf w 28 16 = 0 →
      if cc ≤ 5 then
        EndsWith (.pCmpi n w) s n fun b => ∃ v, PredSet a b (bitsOf w 47 45) v ∧
          (v = true ↔ condition cc (a.sreg (bitsOf w 34 29)) ((w.truncate 16 : BitVec 16).signExtend 64))
      else FaultsWith (.pCmpi n w) s n 0x02) ∧
    (bitsOf w 34 0 = 0 →
      EndsWith (.pLog n w) s n fun b => PredSet a b (bitsOf w 47 45)
        (w.getLsbD (35 + 2 * b2n (a.pred (bitsOf w 44 42)) + b2n (a.pred (bitsOf w 41 39)))))

/-- A branch, its reserved bits clear: not taken, the next instruction issues; taken, the core goes on at the target with
pc + 8 in sd where it links; a target that is no multiple of 8 faults with cause 0x04 and one outside the Welt and Insole
with 0x0D, both at the branch. -/
def Sys2Proof.BranchActs (i : Instr) (s : State) (n : Core) (w : BitVec 48) (link : Bool) (target : Word) : Prop :=
  let a := (s.core n).arch
  if a.pred (bitsOf w 46 44) = w.getLsbD 47 then EndsWith i s n fun b => b = a
  else if target.toNat % 8 ≠ 0 then FaultsWith i s n 0x04
  else if s.inCode target.toNat = false then FaultsWith i s n 0x0D
  else ∃ t b, exec i s = Host.Outcome.next t ∧ OnlyCore n s t ∧ GoesOn (s.core n) (t.core n) b target ∧
    if link then ScalarSet a b (bitsOf w 43 38) (a.pc + 8) else b = a

/-- BR, JR, CALL and CALLR act as R198's table says. -/
def Sys2Proof.BranchesAct : Prop :=
  ∀ (n : Core) (w : BitVec 48) (s : State), s.canIssue n = true →
    let a := (s.core n).arch
    let off := a.pc + 8 * fImmS w
    let sa := a.sreg (bitsOf w 37 32)
    (bitsOf w 43 32 = 0 → BranchActs (.br n w) s n w false off) ∧
    (bitsOf w 43 38 = 0 → bitsOf w 31 0 = 0 → BranchActs (.jr n w) s n w false sa) ∧
    (bitsOf w 37 32 = 0 → BranchActs (.call n w) s n w true off) ∧
    (bitsOf w 31 0 = 0 → BranchActs (.callr n w) s n w true sa)

/-- The predicates of R197 and the branches of R198. -/
def Obligations.PredicatesAndBranches : Prop := PredicatesAct ∧ BranchesAct

/-! ### Semaphores, fences and the ends of holds (R53, R57, R61 to R64, R199) -/

/-- What SEM.WAIT does once its count is there: the count falls by k, the status goes to sd and back to OK (R63). -/
def Sys2Proof.TakesSemaphore (i : Instr) (s : State) (n : Core) (sd sem k : Nat) : Prop :=
  let a := (s.core n).arch
  let x := a.semOf sem
  EndsWith i s n fun b => ∃ c, SemSet a c sem { count := x.count - BitVec.ofNat 16 k, status := .ok } ∧
    ScalarSet c b sd (BitVec.ofNat 64 x.status.code)

/-- SEM.WAIT takes its count or holds issue until it is there; SEM.SIG adds 1 and leaves the status, and faults with 0x0C at
65,535; SEM.PEEK reads both and changes neither. -/
def Sys2Proof.SemaphoresAct : Prop :=
  ∀ (n : Core) (w : BitVec 48) (s : State), s.canIssue n = true →
    let a := (s.core n).arch
    let sem := bitsOf w 41 36
    let x := a.semOf sem
    let k := bitsOf w 15 0
    (bitsOf w 35 16 = 0 →
      if k ≤ x.count.toNat then TakesSemaphore (.semWait n w) s n (bitsOf w 47 42) sem k
      else HoldsIssue (.semWait n w) s n (.semWait (BitVec.ofNat 6 (bitsOf w 47 42)) (BitVec.ofNat 6 sem) (BitVec.ofNat 16 k))) ∧
    (bitsOf w 47 42 = 0 → bitsOf w 35 0 = 0 →
      if x.count = 65535 then FaultsWith (.semSig n w) s n 0x0C
      else EndsWith (.semSig n w) s n fun b => SemSet a b sem { x with count := x.count + 1 }) ∧
    (bitsOf w 35 0 = 0 →
      EndsWith (.semPeek n w) s n fun b =>
        ScalarSet a b (bitsOf w 47 42) (BitVec.ofNat 64 (x.count.toNat + x.status.code * 65536)))

/-- FENCE lets the next instruction issue where every queue it names has completed, and holds issue otherwise; an empty
mask does nothing. -/
def Sys2Proof.FencesAct : Prop :=
  ∀ (n : Core) (w : BitVec 48) (s : State), s.canIssue n = true → bitsOf w 47 5 = 0 →
    let c := s.core n
    let done := (w.getLsbD 0 = true → c.mx.idle = true) ∧ (w.getLsbD 1 = true → c.mv.idle = true) ∧
      (w.getLsbD 2 = true → c.vx.idle = true) ∧ (w.getLsbD 3 = true → c.stq.idle = true) ∧
      (w.getLsbD 4 = true → c.cl.idle = true)
    (done → EndsWith (.fence n w) s n fun b => b = c.arch) ∧
    (¬ done → HoldsIssue (.fence n w) s n (.fence (BitVec.ofNat 5 (bitsOf w 4 0))))

/-- The instructions of R199. -/
def Obligations.SemaphoresAndFences : Prop := SemaphoresAct ∧ FencesAct

/-- The events that end a hold end it exactly when what it waits for has come: a count, the queues of a fence, a place in
a queue, an instruction line, whose bytes are kept as they were fetched.
The model's choices it rests on are log entries 3, 4, 26. -/
def Obligations.HoldsEnd : Prop :=
  ∀ (n : Core) (s : State), s.live n = true →
    let c := s.core n
    (∀ sd sem k, c.hold = .semWait sd sem k →
      if k.toNat ≤ (c.arch.semOf sem.toNat).count.toNat then
        TakesSemaphore (.semWaitSatisfied n) s n sd.toNat sem.toNat k.toNat
      else exec (.semWaitSatisfied n) s = .next s) ∧
    (∀ m, c.hold = .fence m → c.allIdle = true → EndsWith (.fenceComplete n) s n fun b => b = c.arch) ∧
    (∀ q e, c.hold = .place q e → (e.op.clSide.isSome = true → q = .mx) →
      if c.hasPlace q e = true then
        ∃ t d, exec (.issueQueuePlaceFreed n) s = Host.Outcome.next t ∧ OnlyCore n s t ∧ Placed c d q e ∧
          GoesOn d (t.core n) c.arch (c.arch.pc + 8)
      else exec (.issueQueuePlaceFreed n) s = .next s) ∧
    ∀ l, c.hold = .line l → s.clk.gate[clusterOf n] = .on → s.inCode (l.toNat * 64) = true →
      s.serves (l.toNat * 64) = true →
      if s.anyPoison false (l.toNat * 64) 64 = true then FaultsWith (.instructionLineFetch n l .clean) s n 0x09
      else ∃ t, exec (.instructionLineFetch n l .clean) s = Host.Outcome.next t ∧ OnlyCore n s t ∧
        l ∈ (t.core n).ibuf ∧ (l, s.bytes false (l.toNat * 64) 64) ∈ (t.core n).code ∧
        t.core n = { c with ibuf := (t.core n).ibuf, code := (t.core n).code, hold := .none }

/-! ### Regions (R77 to R80, R200) -/

/-- LYR.OPEN holds issue with the address of its descriptor; a misaligned address faults with cause 0x04, and a region that
is already open with 0x06. LYR.CLOSE outside a region faults with 0x06; inside one it waits for the region's work, and
where that has completed it goes on to close, or to vote first; a vote whose communicator is not bound to the core ends with
SEQ_MISMATCH.
The model's choices it rests on are log entries 14, 15, 18. -/
def Obligations.RegionInstructions : Prop :=
  ∀ (n : Core) (w : BitVec 48) (s : State), s.canIssue n = true →
    let c := s.core n
    let sa := c.arch.sreg (bitsOf w 41 36)
    (bitsOf w 47 42 = 0 → bitsOf w 35 0 = 0 →
      if sa.toNat % 8 ≠ 0 then FaultsWith (.lyrOpen n w) s n 0x04
      else if c.region.isSome = true then FaultsWith (.lyrOpen n w) s n 0x06
      else HoldsIssue (.lyrOpen n w) s n (.lyrOpen sa)) ∧
    (bitsOf w 41 0 = 0 →
      match c.region with
      | none => FaultsWith (.lyrClose n w) s n 0x06
      | some g =>
        if c.allIdle = false then HoldsIssue (.lyrClose n w) s n (.lyrClose (BitVec.ofNat 6 (bitsOf w 47 42)))
        else if g.vote = false then HoldsIssue (.lyrClose n w) s n (.closing (BitVec.ofNat 6 (bitsOf w 47 42)))
        else
          let sd := BitVec.ofNat 6 (bitsOf w 47 42)
          let bound := ∃ v k, s.commOn g.voteComm = some (v, k) ∧ commCore v = n
          (bound → (∀ b ∈ s.coll.active, b.comm ≠ g.voteComm) →
            ∃ t, exec (.lyrClose n w) s = Host.Outcome.next t ∧ (t.core n).hold = .closing sd) ∧
          (¬ bound → ∃ t, exec (.lyrClose n w) s = Host.Outcome.next t ∧ (∀ m, m ≠ n → t.core m = s.core m) ∧
            t.core n = { c with hold := .closing sd, region := some { g with voteResult := some (.seqMismatch, 3) } }))

/-- Once earlier work has completed, LYR.OPEN reads its 136-byte descriptor in the core's own scratch. One that fails its
code, or has a field out of range or overlapping windows, faults with cause 0x06, and a one in a reserved field of a head
that is sound with 0x02, whatever follows the head; otherwise the region opens with r = 0, every ring and both banks are empty, the heel is zero, the snapshot holds the
registers as they were, and the next instruction issues. -/
def Sys2Proof.RegionOpensAct : Prop :=
  ∀ (n : Core) (o : Nat) (s : State), s.live n = true → (s.core n).hold = .lyrOpen (BitVec.ofNat 64 (scratchAddr n o)) →
    (s.core n).allIdle = true → o + 136 ≤ 0x800000 →
    let c := s.core n
    let raw := (List.range 136).map fun i => c.arch.scratch.read (o + i)
    if ∃ i < 8, (o + i) / 16 ∈ c.arch.scratchPoison then FaultsWith (.lyrOpenComplete n .clean) s n 0x06
    else if regionResv raw = false then FaultsWith (.lyrOpenComplete n .clean) s n 0x02
    else if ∃ i < 136, (o + i) / 16 ∈ c.arch.scratchPoison then FaultsWith (.lyrOpenComplete n .clean) s n 0x06
    else if regionOk raw = false then FaultsWith (.lyrOpenComplete n .clean) s n 0x06
    else ∃ t g, exec (.lyrOpenComplete n .clean) s = Host.Outcome.next t ∧ OnlyCore n s t ∧
      (t.core n).region = some g ∧ g.r = 0 ∧ g.id.toNat = natAt raw 0 2 ∧ g.limit.toNat = natAt raw 3 1 ∧
      g.first = none ∧ g.nan = false ∧ g.overflow = false ∧
      g.snap = { s := c.arch.s, p := c.arch.p, v := c.arch.v, m := c.arch.m, sem := c.arch.sem, st := c.arch.st
                 seq := c.seq, pc := c.arch.pc + 8 } ∧
      (∀ r ∈ (t.core n).arch.ring.toList, ∀ x ∈ r.slots, x.st = .empty) ∧
      (∀ b ∈ (t.core n).arch.bank.toList, b.loaded = false) ∧ (∀ a, (t.core n).arch.heel.read a = 0) ∧
      GoesOn { c with region := some g, packs := 0, reg := { c.reg with regionId := g.id } } (t.core n)
        { c.arch with ring := (t.core n).arch.ring, bank := (t.core n).arch.bank, heel := (t.core n).arch.heel
                      heelPoison := (t.core n).arch.heelPoison } (c.arch.pc + 8)

/-- A region that does not vote closes or repeats by its local outcome: dirty by NaN, dirty by a status, a repeat below
repeat_limit, exhausted at it, and clean (R79, R80). -/
def Sys2Proof.RegionClosesAct : Prop :=
  ∀ (n : Core) (sd : BitVec 6) (g : Region) (s : State), s.live n = true → (s.core n).hold = .closing sd →
    (s.core n).region = some g → g.vote = false → s.ing.later = 0 → s.awl.onNan = false →
    let c := s.core n
    let closes := fun (st : Status) (flag : BitVec 8) =>
      ∃ t b, exec (.lyrCloseOutcome n) s = Host.Outcome.next t ∧ OnlyCore n s t ∧
        ScalarSet c.arch b sd.toNat (BitVec.ofNat 64 st.code) ∧
        GoesOn { c with region := none, packs := 0, flags := c.flags ||| flag, reg := { c.reg with health := c.reg.health ||| flag } }
          (t.core n) b (c.arch.pc + 8)
    if g.nan = true then closes .nanInRegion 0x01
    else match g.first with
      | some st => closes st st.flag
      | none =>
        if g.overflow = false then closes .ok 0
        else if g.limit.toNat ≤ g.r.toNat then closes .overflowRepeatExhausted 0x02
        else ∃ t, exec (.lyrCloseOutcome n) s = Host.Outcome.next t ∧ OnlyCore n s t ∧
          (t.core n).region = some { g with r := g.r + 1, overflow := false, voteResult := none } ∧
          (t.core n).arch.s = g.snap.s ∧ (t.core n).arch.p = g.snap.p ∧ (t.core n).arch.v = g.snap.v ∧
          (t.core n).arch.m = g.snap.m ∧ (t.core n).arch.sem = g.snap.sem ∧ (t.core n).arch.st = g.snap.st ∧
          (t.core n).seq = g.snap.seq ∧ (t.core n).arch.pc = g.snap.pc ∧
          (∀ r ∈ (t.core n).arch.ring.toList, ∀ x ∈ r.slots, x.st = .empty) ∧
          (∀ b ∈ (t.core n).arch.bank.toList, b.loaded = false) ∧ (∀ a, (t.core n).arch.heel.read a = 0) ∧
          (t.core n).reg = c.reg ∧ (t.core n).arch.scratch = c.arch.scratch

/-- LYR.OPEN and LYR.CLOSE of a region that does not vote.
The model's choices it rests on are log entries 12, 16, 17, 18, 19. -/
def Obligations.RegionsOpenAndClose : Prop := RegionOpensAct ∧ RegionClosesAct

/-! ### The step vote of a core (R82, R200, R357) -/

/-- STEP.VOTE and STEP.COMMIT hold issue for every queue; inside a region they fault with cause 0x08; a STEP.COMMIT with no
STEP.VOTE before it writes ALREADY_DONE and goes on. -/
def Sys2Proof.StepInstructionsAct : Prop :=
  ∀ (n : Core) (w : BitVec 48) (s : State), s.canIssue n = true →
    let c := s.core n
    (bitsOf w 47 0 = 0 →
      if c.region.isSome = true then FaultsWith (.stepVote n w) s n 0x08 else HoldsIssue (.stepVote n w) s n .stepVote) ∧
    (bitsOf w 41 0 = 0 →
      if c.region.isSome = true then FaultsWith (.stepCommit n w) s n 0x08
      else if c.voteSince = true then
        HoldsIssue (.stepCommit n w) s n (.stepCommit (BitVec.ofNat 6 (bitsOf w 47 42)))
      else EndsWith (.stepCommit n w) s n fun b => ScalarSet c.arch b (bitsOf w 47 42) 0x01)

/-- While another voter of the part has yet to vote and the part has sent nothing, a core whose queues have completed
contributes its step flags and clears them, and goes on. Where the part waits for its flag round, a core that has voted
seals and enters WAITING with its interrupt raised. -/
def Sys2Proof.StepContributionsAct : Prop :=
  ∀ (n : Core) (s : State), s.live n = true → (s.core n).allIdle = true →
    let c := s.core n
    (c.hold = .stepVote → s.step.flagSent = false →
      (∃ m, m ≠ n ∧ (s.core m).votes = true ∧ (s.core m).voted = false ∧ (s.core m).byState = false) →
      ∃ t, exec (.stepVoteContribute n) s = Host.Outcome.next t ∧ OnlyCore n s t ∧
        GoesOn { c with
          flags := 0, updates := 0, voted := true, voteSince := true
          voteWord := if c.isVoter = true then c.voteWord ||| (c.flags &&& 0x7F).zeroExtend 16 else c.voteWord }
          (t.core n) c.arch (c.arch.pc + 8)) ∧
    (∀ sd, c.hold = .stepCommit sd → c.voted = true → s.step.flagSent = true → s.step.flagDone = false →
      ∃ t, exec (.stepCommitSeal n) s = Host.Outcome.next t ∧
        t = { s with cores := t.cores, ctx := { s.ctx with pend := s.ctx.pend ||| BitVec.ofNat 32 (2 ^ n.val) } } ∧
        (∀ m, m ≠ n → t.core m = s.core m) ∧ (t.core n).reg = { c.reg with run := .waiting } ∧
        (t.core n).hold = .commitWait sd ∧ (t.core n).flags = 0 ∧ (t.core n).updates = 0 ∧ (t.core n).sealed = true ∧
        (t.core n).voteSince = false ∧ (t.core n).arch = c.arch ∧
        (t.core n).sealWord = c.sealWord ||| (c.flags &&& 0x7F).zeroExtend 16 ||| (if c.updates.getLsbD 0 then 0x80 else 0) |||
          (if c.updates.getLsbD 1 then 0x200 else 0))

/-- STEP.VOTE and STEP.COMMIT at issue and when they contribute.
The model's choices it rests on are log entries 20, 21. -/
def Obligations.StepVotes : Prop := StepInstructionsAct ∧ StepContributionsAct

/-! ### System instructions (R68, R174, R201) -/

/-- SYS.NOP, SYS.REP, SYS.CYC and SYS.MARK end in their issue cycle with what R201 and R174 give; SYS.HALT holds issue. -/
def Sys2Proof.SystemIssues : Prop :=
  ∀ (n : Core) (w : BitVec 48) (s : State), s.canIssue n = true →
    let c := s.core n
    (bitsOf w 47 0 = 0 → EndsWith (.sysNop n w) s n fun b => b = c.arch) ∧
    (bitsOf w 47 16 = 0 → HoldsIssue (.sysHalt n w) s n (.halt (w.truncate 16))) ∧
    (bitsOf w 41 0 = 0 →
      EndsWith (.sysRep n w) s n fun b => ScalarSet c.arch b (bitsOf w 47 42)
        (match c.region with
         | none => 0
         | some g => g.r.zeroExtend 64)) ∧
    (bitsOf w 41 0 = 0 →
      EndsWith (.sysCyc n w) s n fun b => ScalarSet c.arch b (bitsOf w 47 42) (BitVec.ofNat 64 (c.cycles / 100))) ∧
    (bitsOf w 47 16 = 0 →
      ∃ t r, exec (.sysMark n w) s = Host.Outcome.next t ∧
        t = { s with cores := t.cores, awl := { s.awl with trace := s.awl.trace ++ [r] } } ∧
        (∀ m, m ≠ n → t.core m = s.core m) ∧ GoesOn c (t.core n) c.arch (c.arch.pc + 8) ∧
        r.core = n ∧ r.imm = w.truncate 16 ∧ r.pc = c.arch.pc ∧ r.cycles = BitVec.ofNat 64 (c.cycles / 100) ∧
        ∀ g, c.region = some g → r.region = g.id)

/-- SYS.HALT, once every queue has completed and while no round of the vote is due, writes halt_code and OK, enters HALTED
and raises the core's interrupt (R68). -/
def Sys2Proof.HaltCompletes : Prop :=
  ∀ (n : Core) (imm : BitVec 16) (s : State), s.live n = true → (s.core n).allIdle = true →
    (s.core n).hold = .halt imm → s.step.flagSent = true → s.step.flagDone = false →
    ∃ t, exec (.sysHaltComplete n) s = Host.Outcome.next t ∧
      t = { s with cores := t.cores, ctx := { s.ctx with pend := s.ctx.pend ||| BitVec.ofNat 32 (2 ^ n.val) } } ∧
      (∀ m, m ≠ n → t.core m = s.core m) ∧
      t.core n = { s.core n with hold := .none
                                 reg := { (s.core n).reg with run := .halted, haltCode := imm, lastStatus := .ok } }

/-- The instructions of R201 and the completion of SYS.HALT. -/
def Obligations.SystemInstructions : Prop := SystemIssues ∧ HaltCompletes

/-! ### Engine instructions (R57 to R60, R192, R193, R217) -/

/-- The instructions of one word layout that enter an engine queue: queue, operation, and the scalars they read. -/
structure Sys2Proof.EngineForm where
  i : Core → BitVec 48 → Instr
  q : QueueId
  op : EngOp
  a : BitVec 48 → Nat
  b : BitVec 48 → Nat
  c : BitVec 48 → Nat
  ok : CoreArch → BitVec 48 → Bool

/-- No scalar is read. -/
def Sys2Proof.noScalar (_ : BitVec 48) : Nat := 0

/-- The scalar in [43:38]. -/
def Sys2Proof.scalar43 (w : BitVec 48) : Nat := bitsOf w 43 38

/-- The near-memory and collective forms: tail in order, [47:44] and [37:21] clear. -/
def Sys2Proof.descForm (i : Core → BitVec 48 → Instr) (q : QueueId) (op : EngOp) : EngineForm :=
  { i := i, q := q, op := op, a := scalar43, b := noScalar, c := noScalar
    ok := fun _ w => tailOk w && bitsOf w 47 44 == 0 && bitsOf w 37 21 == 0 }

/-- The register rearrangements: tail in order, the bits from lo down to 21 clear, and a condition of their own. -/
def Sys2Proof.regForm (i : Core → BitVec 48 → Instr) (op : EngOp) (lo : Nat) (ok : BitVec 48 → Bool) : EngineForm :=
  { i := i, q := .vx, op := op, a := fun w => bitsOf w 42 37, b := noScalar, c := noScalar
    ok := fun _ w => tailOk w && bitsOf w lo 21 == 0 && ok w }

/-- The formats VX.PACK and VX.UNPK accept: 16-bit and 8-bit ones. -/
def Sys2Proof.packable (f : Nat) : Bool := f == 0 || f == 1 || f == 2 || f == 4 || f == 7 || f == 8

/-- Lanes' worth of registers a packed register unpacks to. -/
def Sys2Proof.packCount (f : Nat) : Nat := if f == 1 || f == 2 || f == 7 then 4 else 2

/-- A pass: tail, reserved fields, formats and feed alignment in order, and conditions of its own. -/
def Sys2Proof.passForm (i : Core → BitVec 48 → Instr) (op : EngOp) (ok : BitVec 48 → Word → Word → Bool) : EngineForm :=
  { i := i, q := .mx, op := op, a := fun w => bitsOf w 41 36, b := fun w => bitsOf w 35 30, c := fun w => bitsOf w 29 24
    ok := fun r w =>
      let x := r.sreg (bitsOf w 41 36)
      let y := r.sreg (bitsOf w 35 30)
      passResv w x y && passFmt w x y && feedAligned y && ok w x y }

/-- Every instruction that enters an engine queue, with the words its rules accept (R204 to R213). -/
def Sys2Proof.engineForms : List EngineForm :=
  [{ i := .stRing, q := .st, op := .stRing, a := scalar43, b := noScalar, c := noScalar
     ok := fun r w =>
       let v := r.sreg (bitsOf w 43 38)
       tailOk w && bitsOf w 37 21 == 0 && bitsOf v 63 23 == 0 && bitsOf v 11 5 == 0 && decide (3 ≤ bitsOf v 4 0) &&
         decide (bitsOf v 4 0 ≤ 16) && decide (bitsOf v 22 12 + bitsOf v 4 0 ≤ 2048) },
   { i := .stDesc, q := .st, op := .stDesc, a := scalar43, b := noScalar, c := noScalar
     ok := fun _ w => tailOk w && bitsOf w 37 21 == 0 },
   { i := .stGo, q := .st, op := .stGo, a := scalar43, b := noScalar, c := noScalar
     ok := fun _ w => tailOk w && bitsOf w 37 21 == 0 },
   descForm .nmOpt .st (.nm .opt), descForm .nmGather .st (.nm .gather), descForm .nmScatter .st (.nm .scatter),
   descForm .nmShuffle .st (.nm .shuffle), descForm .nmReduce .st (.nm .reduce), descForm .nmQuant .st (.nm .quant),
   descForm .nmDequant .st (.nm .dequant), descForm .nmAmax .st (.nm .amax),
   descForm .clAr .cl (.cl .ar), descForm .clRs .cl (.cl .rs), descForm .clAg .cl (.cl .ag),
   descForm .clA2a .cl (.cl .a2a), descForm .clBc .cl (.cl .bc), descForm .clBar .cl (.cl .bar),
   { i := .mxLoad, q := .mx, op := .mxLoad, a := fun w => bitsOf w 33 28, b := noScalar, c := noScalar
     ok := fun r w =>
       let v := r.sreg (bitsOf w 33 28)
       tailOk w && bitsOf w 27 21 == 0 && (!w.getLsbD 34 || bitsOf w 42 39 == 7) && bitsOf v 63 18 == 0 &&
         (match pairOf (bitsOf w 42 39) (bitsOf w 42 39) (bitsOf w 38 35) with
          | some (l, _) => decide (bitsOf v 17 8 ≤ 256 * l)
          | none => false) },
   passForm .mxPass .mxPass fun w _ _ => bitsOf w 29 24 == 0,
   passForm .mxAg .mxAg fun _ x _ => x.getLsbD 5,
   passForm .mxRs .mxRs fun w x y =>
     w.getLsbD 42 && bitsOf x 62 47 != 0 && bitsOf y 23 15 == 0 && bitsOf y 14 13 != 3,
   { i := .mxRstat, q := .mx, op := .mxRstat, a := noScalar, b := noScalar, c := noScalar
     ok := fun _ w => tailOk w && bitsOf w 23 21 == 0 },
   { i := .mvDot, q := .mv, op := .mvDot, a := fun w => bitsOf w 36 31, b := fun w => bitsOf w 30 25, c := noScalar
     ok := fun r w =>
       let x := r.sreg (bitsOf w 36 31)
       let y := r.sreg (bitsOf w 30 25)
       tailOk w && bitsOf w 24 21 == 0 && bitsOf x 7 0 == 0 && bitsOf y 63 37 == 0 && bitsOf y 19 0 == 0 &&
         bitsOf x 11 8 != 7 && bitsOf x 11 8 != 3 &&
         (match pairOf (bitsOf x 11 8) (bitsOf x 15 12) (bitsOf x 19 16) with
          | some (l, _) => decide (bitsOf x 37 28 ≤ 256 * l)
          | none => false) },
   { i := .vxChain, q := .vx, op := .vxChain, a := noScalar, b := noScalar, c := noScalar
     ok := fun _ w => tailOk w && bitsOf w 47 44 == 0 && bitsOf w 43 21 % 8 == 0 },
   regForm .vxPerm .vxPerm 32 fun _ => true, regForm .vxPerm2 .vxPerm2 27 fun _ => true,
   regForm .vxShuf .vxShuf 26 fun w =>
     decide (bitsOf w 37 35 < 6) && (bitsOf w 37 35 == 1 || bitsOf w 37 35 == 4 || bitsOf w 37 35 == 5 || bitsOf w 34 27 == 0),
   regForm .vxCmpr .vxCmpr 34 fun _ => true, regForm .vxExpd .vxExpd 34 fun _ => true,
   regForm .vxPack .vxPack 31 fun w =>
     packable (bitsOf w 37 34) && bitsOf w 33 32 != 3 && decide (bitsOf w 42 38 + packCount (bitsOf w 37 34) ≤ 32),
   regForm .vxUnpk .vxUnpk 33 fun w =>
     packable (bitsOf w 37 34) && decide (bitsOf w 47 43 + packCount (bitsOf w 37 34) ≤ 32),
   regForm .vxMset .vxMset 39 fun _ => true, regForm .vxSplat .vxSplat 36 fun _ => true,
   regForm .vxFlags .vxFlags 42 fun _ => true]

/-- An accepted engine instruction takes a place in its queue, and a fused one a place in the CL queue too, with its scalars
and its predicate as they are at issue; where a place is missing it holds issue. Nothing else changes.
The model's choices it rests on are log entries 4, 32. -/
def Obligations.EngineInstructionsQueue : Prop :=
  ∀ (n : Core) (w : BitVec 48) (s : State), s.canIssue n = true → ∀ f ∈ engineForms, f.ok (s.core n).arch w = true →
    let c := s.core n
    let e : QEntry :=
      { id := c.nextId, op := f.op, w := w, a := c.arch.sreg (f.a w), b := c.arch.sreg (f.b w), c := c.arch.sreg (f.c w)
        pc := c.arch.pc, act := c.arch.pred (bitsOf w 2 0) != w.getLsbD 3 }
    let room := (c.queue f.q).waiting.length < 16 ∧ (f.op = .mxAg ∨ f.op = .mxRs → c.cl.waiting.length < 16)
    (room → ∃ t d, exec (f.i n w) s = Host.Outcome.next t ∧ OnlyCore n s t ∧
      Placed { c with nextId := c.nextId + 1 } d f.q e ∧ GoesOn d (t.core n) c.arch (c.arch.pc + 8)) ∧
    (¬ room → ∃ t, exec (f.i n w) s = Host.Outcome.next t ∧ OnlyCore n s t ∧
      t.core n = { c with nextId := c.nextId + 1, hold := .place f.q e })

/-- The head e of queue q of core n may be taken up: the core runs or waits, is in service and not stopping, and the wait of
e is met. No other instruction of the core has started. -/
def Sys2Proof.MayTake (s : State) (n : Core) (q : QueueId) (e : QEntry) (rest : List QEntry) : Prop :=
  let c := s.core n
  s.fastOn = true ∧ c.busy = true ∧ c.phase = .service ∧ c.stopping = false ∧ (c.queue q).waiting = e :: rest ∧
    e.op.isFused = false ∧ tailWcnt e.w ≤ (c.arch.semOf (tailWsem e.w)).count.toNat ∧ NothingStarted s n ∧
    SignalFits c.arch e

/-- A head whose predicate is false subtracts its wait count, does nothing, and signals OK; one whose wait is not met stays
where it is (R60, R62, R193).
The model's choice it rests on is log entry 3. -/
def Obligations.FalsePredicateOnlySignals : Prop :=
  ∀ (n : Core) (q : QueueId) (e : QEntry) (rest : List QEntry) (hw : HwFault) (s : State),
    (MayTake s n q e rest → e.act = false →
      ∃ t b, exec (.engineInstructionStart n q hw) s = Host.Outcome.next t ∧ OnlyCore n s t ∧
        b = { (s.core n).arch with sem := b.sem } ∧ SemsAfter (s.core n).arch b e ∧ HeadGone (s.core n) (t.core n) q rest b) ∧
    (((s.core n).queue q).waiting = e :: rest → headWait e > ((s.core n).arch.semOf (tailWsem e.w)).count.toNat →
      exec (.engineInstructionStart n q hw) s = Host.Outcome.next s)

/-- ST.RING, once its ring is empty and unused, gives it its base and slot count with every slot EMPTY; ST.DESC loads its
stream register from the 96 bytes at its offset; ST.GO, its checks passed, starts its stream with its offset and holds its
ring; VX.SPLAT puts its scalar into every lane of its register, and VX.MSET a bit into each lane of its mask that is set
where the register's lane is not zero. Each subtracts its wait count, the ones that end at once signal, and nothing else
changes.
The model's choices it rests on are log entries 3, 17, 25. -/
def Obligations.EngineInstructionsStart : Prop :=
  ∀ (n : Core) (q : QueueId) (e : QEntry) (rest : List QEntry) (hw : HwFault) (s : State), MayTake s n q e rest →
    e.act = true →
    let a := (s.core n).arch
    let num := bitsOf e.w 47 44
    let t := stNum e.w
    let ends := fun (P : CoreArch → Prop) => ∃ u b, exec (.engineInstructionStart n q hw) s = Host.Outcome.next u ∧
      OnlyCore n s u ∧ SemsAfter a b e ∧ P b ∧ HeadGone (s.core n) (u.core n) q rest b
    (q = .st → e.op = .stRing → (a.ringOf num).idle = true →
      ends fun b => b = { a with ring := b.ring, sem := b.sem } ∧ (∀ j < 16, j ≠ num → b.ringOf j = a.ringOf j) ∧
        (b.ringOf num).base.toNat = bitsOf e.a 22 12 ∧ (b.ringOf num).nslots.toNat = bitsOf e.a 4 0 ∧
        (b.ringOf num).slots = List.replicate (bitsOf e.a 4 0) Slot.reset ∧ (b.ringOf num).failed = none) ∧
    (q = .st → e.op = .stDesc → (a.stOf t).active = false → e.a.toNat % 16 = 0 → e.a.toNat + 96 ≤ 0x800000 →
      hw.descEcc = .clean → (∀ i < 96, (e.a.toNat + i) / 16 ∉ a.scratchPoison) → (∀ y ∈ (s.core n).stale, y.1 ≤ e.id) →
      ends fun b => b = { a with st := b.st, sem := b.sem } ∧ (∀ j : Fin 16, j ≠ t → b.stOf j = a.stOf j) ∧
        b.stOf t = Stream.load ((List.range 96).map fun i => a.scratch.read (e.a.toNat + i))) ∧
    (q = .st → e.op = .stGo → (s.core n).stMayStart e = true → s.goCheck n { a.stOf t with off := e.a } = none →
      ∃ u, exec (.engineInstructionStart n q hw) s = Host.Outcome.next u ∧ OnlyCore n s u ∧
        ((u.core n).arch.stOf t).active = true ∧ ((u.core n).arch.stOf t).off = e.a ∧ ((u.core n).arch.stOf t).next = 0 ∧
        ((u.core n).arch.stOf t).id = e.id ∧ (∀ j : Fin 16, j ≠ t → (u.core n).arch.stOf j = a.stOf j) ∧
        (if (a.stOf t).writes = true then ((u.core n).arch.ringOf (a.stOf t).ring).cons = some e.id
         else ((u.core n).arch.ringOf (a.stOf t).ring).prod = some e.id) ∧
        (u.core n).stq.waiting = rest ∧ (u.core n).stq.running.map RunEntry.e = (s.core n).stq.running.map RunEntry.e ++ [e] ∧
        (u.core n).arch.scratch = a.scratch ∧ (u.core n).arch.s = a.s) ∧
    (q = .vx → e.op = .vxSplat → (s.core n).mv.waiting = [] → SMap.wf 0 a.v = true →
      ends fun b => b = { a with v := b.v, sem := b.sem } ∧ ∀ r < 32, ∀ k < 256,
        SMap.get 0 b.v (r * 256 + k) = if r = bitsOf e.w 47 43 then e.a.truncate 32 else SMap.get 0 a.v (r * 256 + k)) ∧
    (q = .vx → e.op = .vxMset → (s.core n).mv.waiting = [] →
      ends fun b => b = { a with m := b.m, sem := b.sem } ∧ ∀ r < 8, ∀ k < 256,
        (vgetD b.m r 0).getLsbD k =
          if r = bitsOf e.w 47 45 then SMap.get 0 a.v (bitsOf e.w 44 40 * 256 + k) != 0 else (vgetD a.m r 0).getLsbD k)

/-! ### Streams (R154 to R165) -/

/-- A stream of core n that reads (or writes) memory of this part and has not failed or been stopped. -/
def Sys2Proof.RunsLocally (s : State) (n : Core) (x : Stream) (writes : Bool) : Prop :=
  x.active = true ∧ x.writes = writes ∧ x.remote = false ∧ x.broken = false ∧ (s.core n).stopAt x.id = false

/-- A read stream whose pool's turn it is, with a free tag, a lead below its ring's slots + 16 and a staging block to land in,
sends its next request: one piece of at most 4 KiB, which holds the tag under a new use count and the block. A unit in reset
refuses it. -/
def Sys2Proof.ReadRequestsIssue : Prop :=
  ∀ (n : Core) (t : Fin 16) (tag : Nat) (s : State),
    let c := s.core n
    let x := c.arch.stOf t
    s.fastOn = true → RunsLocally s n x false → x.next < x.total → c.lead x < (c.arch.ringOf x.ring).nslots.toNat + 16 →
    c.freeTag x = some tag → s.turnOf n t = true → ∀ pool, (s.welt.claim .mem (blockFor n t)).2 = some pool →
    ∃ u k, exec (.readRequestIssue n t) s = Host.Outcome.next u ∧ 0 < k ∧ k * x.esize ≤ 4096 ∧
      let places := (List.range k).map fun i => addrLocal (x.elem (x.next + i))
      u = { s with cores := u.cores, welt := (s.welt.claim .mem (blockFor n t)).1, clk := (s.wakeAt places).clk } ∧
      (∀ m, m ≠ n → u.core m = s.core m) ∧
      (u.core n).tags = c.tags ++ [(tag, t.val, x.next)] ∧
      (∀ j < 128, vgetD (u.core n).tagUse j 0 = vgetD c.tagUse j 0 + if j = tag then 1 else 0) ∧
      (u.core n).arch.stOf t = { x with
        next := x.next + k
        reqs := x.reqs ++ [{ first := x.next, cnt := k, tag := tag, uc := vgetD c.tagUse tag 0 + 1, need := 1
                             done := false, data := [], status := if places.all s.serves then .ok else .refusedReset
                             blk := some pool, via := (places.filterMap s.unitAt).eraseDups }] } ∧
      (∀ j : Fin 16, j ≠ t → (u.core n).arch.stOf j = c.arch.stOf j) ∧
      (u.core n).arch.ring = c.arch.ring ∧ (u.core n).arch.scratch = c.arch.scratch ∧ (u.core n).arch.s = c.arch.s

/-- The reply to a local read brings its elements in order, or the status with which its unit refused it, and releases its
tag; one whose use count is not that of the tag, and one of a unit reset since, changes nothing; a request that passes its time
limit ends with TIMEOUT and its tag is released, its block too unless it reads memory of this part, and what of it waits under
inject_stop ends. -/
def Sys2Proof.ReadRepliesLand : Prop :=
  ∀ (n : Core) (t : Fin 16) (tag : BitVec 7) (uc : BitVec 4) (r : Req) (s : State), s.fastOn = true →
    let c := s.core n
    let x := c.arch.stOf t
    (c.tags.find? fun y => y.1 == tag.toNat) = some (tag.toNat, t.val, r.first) →
    (x.reqs.find? fun y => y.first == r.first) = some r →
    let answered := fun (u : State) (st : Status) (bs : List Byte) =>
      (u.core n).tags = c.tags.filter (fun y => y.1 != tag.toNat) ∧
      (u.core n).arch.stOf t = { x with reqs := x.reqs.map fun y =>
        if y.first == r.first then
          { y with done := true, data := bs, status := st, blk := if x.gives st then none else y.blk } else y } ∧
      (∀ m, m ≠ n → u.core m = s.core m) ∧ (∀ j : Fin 16, j ≠ t → (u.core n).arch.stOf j = c.arch.stOf j)
    let at_ := fun (i : Nat) => addrLocal (x.elem (r.first + i))
    (vgetD c.tagUse tag.toNat 0 ≠ uc → exec (.readReplyLand n tag uc .clean) s = Host.Outcome.next s) ∧
    (vgetD c.tagUse tag.toNat 0 = uc → RunsLocally s n x false → r.status = .ok → s.sameEpochs r.via = false →
      exec (.readReplyLand n tag uc .clean) s = Host.Outcome.next s) ∧
    (vgetD c.tagUse tag.toNat 0 = uc → RunsLocally s n x false → r.status ≠ .ok →
      ∃ u, exec (.readReplyLand n tag uc .clean) s = Host.Outcome.next u ∧ u = { s with cores := u.cores } ∧
        answered u r.status []) ∧
    (vgetD c.tagUse tag.toNat 0 = uc → RunsLocally s n x false → 0 < r.cnt → r.status = .ok → s.sameEpochs r.via = true →
      (∀ i < r.cnt, s.anyPoison false (at_ i) x.esize = false) →
      ∃ u, exec (.readReplyLand n tag uc .clean) s = Host.Outcome.next u ∧ u = { s with cores := u.cores } ∧
        answered u .ok ((List.range r.cnt).flatMap fun i => s.bytes false (at_ i) x.esize)) ∧
    ∃ u, exec (.requestTimeLimit n tag) s = Host.Outcome.next u ∧
      u = { s with cores := u.cores, welt := if x.gives .timeout = true then (s.giveReq n x r).welt else s.welt
                   fab := if s.fab.injectStop then { s.fab with inject := s.fab.inject.filter fun y =>
                     !(y.2.2.kind.toNat < 2 && bitsOf y.2.2.ctx 14 11 == n.val && bitsOf y.2.2.ctx 6 0 == tag.toNat) }
                     else s.fab } ∧ answered u .timeout []

/-- Local read streams.
The model's choices it rests on are log entries 3, 42, 43. -/
def Obligations.ReadStreams : Prop := ReadRequestsIssue ∧ ReadRepliesLand

/-- The landed block that is next in stream order fills the EMPTY tail slot of its ring, which becomes FULL and the tail
moves on; the block of staging is returned; the last block of an end-marked stream marks its slot.
The model's choices it rests on are log entries 3, 42. -/
def Obligations.BlocksMoveIntoRings : Prop :=
  ∀ (n : Core) (t : Fin 16) (r : Req) (rest : List Req) (s : State), s.fastOn = true → MemoriesWf s →
    let c := s.core n
    let x := c.arch.stOf t
    let g := c.arch.ringOf x.ring
    RunsLocally s n x false → x.reqs = r :: rest → r.done = true → r.status = .ok → g.hasRoom = true →
    g.tail < g.slots.length → r.data.length ≤ 4096 → g.slotOff g.tail + 4096 ≤ 0x800000 →
    (∀ i < 4096, (g.slotOff g.tail + i) / 16 ∉ c.arch.scratchPoison) → NothingStarted s n → ∀ pool, r.blk = some pool →
    ∃ u, exec (.blockMoveToRing n ⟨t, .clean⟩) s = Host.Outcome.next u ∧
      u = { s with cores := u.cores, welt := s.welt.give .mem n.val pool } ∧ (∀ m, m ≠ n → u.core m = s.core m) ∧
      (u.core n).arch.stOf t = { x with reqs := rest } ∧
      ((u.core n).arch.ringOf x.ring).slot g.tail =
        { st := .full, cnt := r.data.length, eos := decide (r.first + r.cnt ≥ x.total) && x.eos, owner := x.id } ∧
      ((u.core n).arch.ringOf x.ring).tail = g.after g.tail ∧
      (∀ j < 16, j ≠ x.ring → (u.core n).arch.ringOf j = c.arch.ringOf j) ∧
      (∀ o, (u.core n).arch.scratch.read o =
        if g.slotOff g.tail ≤ o ∧ o < g.slotOff g.tail + r.data.length then r.data.getD (o - g.slotOff g.tail) 0
        else c.arch.scratch.read o)

/-- The acknowledgement of a local write releases its tag and its block and takes the request off the stream, and one of a
unit reset since changes nothing; a stream
with nothing outstanding that has moved all its elements completes with OK: it is inactive, its ring is released, and its
instruction leaves the queue and signals. -/
def Sys2Proof.WritesAndStreamsEnd : Prop :=
  ∀ (n : Core) (t : Fin 16) (s : State), s.fastOn = true →
    let c := s.core n
    let x := c.arch.stOf t
    (∀ (tag : BitVec 7) (uc : BitVec 4) (r : Req), RunsLocally s n x true → vgetD c.tagUse tag.toNat 0 = uc →
      (c.tags.find? fun y => y.1 == tag.toNat) = some (tag.toNat, t.val, r.first) → x.reqs = [r] → r.need = 1 →
      r.status = .ok →
      if s.sameEpochs r.via = false then exec (.writeAcknowledge n tag uc) s = Host.Outcome.next s
      else ∀ pool, r.blk = some pool → ∃ u, exec (.writeAcknowledge n tag uc) s = Host.Outcome.next u ∧
        u = { s with cores := u.cores, welt := s.welt.give .mem n.val pool } ∧ (∀ m, m ≠ n → u.core m = s.core m) ∧
        (u.core n).tags = c.tags.filter (fun y => y.1 != tag.toNat) ∧ (u.core n).arch.stOf t = { x with reqs := [] }) ∧
    (∀ y : RunEntry, RunsLocally s n x false → x.reqs = [] → x.failed = none → x.next ≥ x.total → x.soft = false →
      (c.stq.running.find? fun z => z.e.id == x.id) = some y → y.e.op = .stGo → tailWcnt y.e.w = 0 → SignalFits c.arch y.e →
      NothingStarted s n →
      ∃ u, exec (.streamComplete n t) s = Host.Outcome.next u ∧
        u = { s with cores := u.cores, welt := s.welt.withdraw .mem fun q => q == blockFor n t } ∧
        (∀ m, m ≠ n → u.core m = s.core m) ∧ (u.core n).arch.stOf t = { x with active := false } ∧
        (u.core n).stq.running = c.stq.running.filter (fun z => z.e.id != x.id) ∧ SemsAfter c.arch (u.core n).arch y.e ∧
        ∀ i < 16, ((u.core n).arch.ringOf i).prod ≠ some x.id)

/-- The value that the last cell of a list for a place gives it. -/
def Sys2Proof.cellFor (s : State) (cells : List (Nat × Byte)) (l : Loc) : Option Byte :=
  (cells.reverse.find? fun c => s.locate false c.1 == some l).map Prod.snd

/-- A local write stream whose pool's turn it is takes bytes of its ring's head with a tag and a block of staging: its request is outstanding, and
where no epoch range is in effect the bytes it takes are in memory, every other byte of which is as before. -/
def Sys2Proof.WritesTakeSlots : Prop :=
  ∀ (n : Core) (t : Fin 16) (tag : Nat) (s : State), s.fastOn = true → NothingStarted s n → MemoriesWf s →
    let c := s.core n
    let x := c.arch.stOf t
    let g := c.arch.ringOf x.ring
    let k := reqLen x x.next (max x.esize ((g.slot g.head).cnt - g.rpos)) 0 4096
    let took := s.ringTake n x.ring (k * x.esize) 17
    let cells := x.cells x.next took.2.1
    RunsLocally s n x true → x.apart = true → x.next < x.total → g.avail ≥ x.esize → c.freeTag x = some tag →
    s.turnOf n t = true → (s.welt.claim .mem (blockFor n t)).2.isSome = true → took.2.2 = false →
    (∀ i < k, s.serves (addrLocal (x.elem (x.next + i))) = true) → (∀ a, s.ins.isEpoch a = false) →
    ∃ u r, exec (.writeSlotTake n t .clean) s = Host.Outcome.next u ∧ 0 < k ∧
      (u.core n).tags = c.tags ++ [(tag, t.val, x.next)] ∧ ((u.core n).arch.stOf t).next = x.next + k ∧
      ((u.core n).arch.stOf t).reqs = x.reqs ++ [r] ∧ r.first = x.next ∧ r.cnt = k ∧ r.tag = tag ∧ r.done = false ∧
      (u.core n).arch.ring = (took.1.core n).arch.ring ∧ (∀ j : Fin 16, j ≠ t → (u.core n).arch.stOf j = c.arch.stOf j) ∧
      ∀ l : Loc, u.byteAt l = (cellFor s cells l).getD (s.byteAt l)

/-- Local write streams.
The model's choices it rests on are log entries 3, 42, 43, 44. -/
def Obligations.WriteStreams : Prop := WritesAndStreamsEnd ∧ WritesTakeSlots

/-! ### Engine instructions complete (R61, R81, R91, R112, R118, R135, R220) -/

/-- A pass, an MV.DOT, a chain and a fused instruction that have ended complete with their status, signal once and leave
their queues: a poisoned word written in part turns OK into ECC_UNCORRECTABLE, an overflow outside a region OK into
OVERFLOW_REPEAT_EXHAUSTED, and that overflow sets repeat_exhausted whatever the status; a fused instruction takes its
collective side's status where that is not OK.
The model's choices it rests on are log entries 3, 30. -/
def Obligations.EngineInstructionsComplete : Prop :=
  ∀ (n : Core) (x : RunEntry) (st : Status) (s : State), s.fastOn = true → x.status = some st →
    (∀ a ∈ s.coll.active, a.core ≠ n) → SignalRoom (s.core n).arch x.e → x.e.op.isNm = false →
    let c := s.core n
    let kept : Status := if x.g.soft = true ∧ st = .ok then .eccUncorrectable else st
    let late := x.g.ovf = true ∧ c.region = none
    let own : Status := if late ∧ kept = .ok then .overflowRepeatExhausted else kept
    let flag : BitVec 8 := if late then 0x02 else 0
    (c.mx.running = [x] → c.mv.running = [] → c.vx.running = [] → x.e.op = .mxPass →
      Completes (.mxPassComplete n) s n x.e own flag) ∧
    (c.mx.running = [] → c.mv.running = [x] → c.vx.running = [] → Completes (.mvDotComplete n) s n x.e own flag) ∧
    (c.mx.running = [] → c.mv.running = [] → c.vx.running = [x] → Completes (.vxChainComplete n) s n x.e own flag) ∧
    (∀ (y : RunEntry) (side : Status), c.mx.running = [x] → c.mv.running = [] → c.vx.running = [] → c.cl.running = [y] →
      x.e.op.isFused = true → y.e.id = x.e.id → y.status = some side →
      Completes (.fusedComplete n) s n x.e (if side = .ok then own else side) flag)

/-! ### Near-memory commands (R163, R266, R267, R357) -/

/-- A near-memory command whose block is sound and passes its checks enters the queue of every stack that holds part of
its anchor operand, and runs; each stack's report adds its count and largest value to the command and leaves its queue;
a stack that is silent too long ends its share with TIMEOUT, and as the last share completes the command so: it signals
TIMEOUT and sets update_fail. A stack that reports progress keeps its share in front of its queue, with one more granule of
its anchor operand done.
The model's choices it rests on are log entries 3, 50, 51. -/
def Obligations.NearMemoryCommands : Prop :=
  ∀ (n : Core) (k : StackId) (s : State), s.fastOn = true →
    let c := s.core n
    (∀ ecc : Ecc, (s.stack[k]).queue = [] → exec (.stackProgressReport ⟨k, ecc⟩) s = .next s) ∧
    (∀ (x : NmEntry) (rest : List NmEntry) (ecc : Ecc), (s.stack[k]).queue = x :: rest → (s.stack[k]).serves = true →
      s.mayRun x = true →
      let r := s.runShare k x false ecc
      r.1.far = false →
      ∃ u, exec (.stackProgressReport ⟨k, ecc⟩) s = Host.Outcome.next u ∧ (u.stack[k]).queue = r.2 :: rest ∧
        (∀ j : StackId, j ≠ k → u.stack[j] = r.1.s.stack[j]) ∧ u.cores = r.1.s.cores ∧ u.welt = r.1.s.welt) ∧
    (∀ (e : QEntry) (rest : List QEntry) (f : NmOp), c.busy = true → c.phase = .service → c.stopping = false →
      c.stq.waiting = e :: rest → e.op = .nm f → e.act = true → (∀ y ∈ c.stale, y.1 ≤ e.id) →
      tailWcnt e.w ≤ (c.arch.semOf (tailWsem e.w)).count.toNat →
      let at_ := fun (o : Nat) => (List.range 64).map fun i => c.arch.scratch.read (o + i)
      let sound := fun (o : Nat) => o % 64 = 0 ∧ o + 64 ≤ 0x800000 ∧ ∀ i < 64, (o + i) / 16 ∉ c.arch.scratchPoison
      let raw := at_ e.a.toNat
      let par := if f = .opt then at_ (natAt raw 48 8) else []
      let b := nmBlock f raw par
      sound e.a.toNat → (f = .opt → sound (natAt raw 48 8)) → (∀ x ∈ s.nmChecks n b raw, x.1 = true) →
      s.anchors b k = true → (∀ j : StackId, s.anchors b j = true → (s.stack[j]).serves = true ∧ (s.stack[j]).queue.length < 8) →
      ∃ u, exec (.nmCommandStart n .clean) s = Host.Outcome.next u ∧ (∀ m, m ≠ n → u.core m = s.core m) ∧
        (∀ j : StackId, u.stack[j] = if s.anchors b j = true then
            { s.stack[j] with queue := (s.stack[j]).queue ++
                [{ core := n, uepoch := s.clk.coreEpoch[n], id := e.id, op := f, block := raw, params := par, no := s.step.given }] }
          else s.stack[j]) ∧
        (u.core n).stq.waiting = rest ∧ (u.core n).stq.running.map RunEntry.e = c.stq.running.map RunEntry.e ++ [e] ∧
        (u.core n).arch = { c.arch with sem := (u.core n).arch.sem } ∧ u.welt = s.welt) ∧
    (∀ (x : NmEntry) (rest : List NmEntry), (s.stack[k]).queue = x :: rest → (s.stack[k]).serves = true →
      s.mayRun x = true → (∃ j : StackId, j ≠ k ∧ ∃ y ∈ (s.stack[j]).queue, y.core = x.core ∧ y.id = x.id) →
      let r := (s.runShare k x true .clean).1
      r.far = false → r.stop = none → r.part = false →
      ∃ u, exec (.nmStackReport k .clean) s = Host.Outcome.next u ∧
        (u.stack[k]).queue = (x :: rest).filter (fun y => !(y.core == x.core && y.id == x.id)) ∧
        u.welt = r.s.welt ∧ (∀ j : StackId, (u.stack[j]).dram = (r.s.stack[j]).dram) ∧
        (u.core x.core).stq.running = (r.s.core x.core).stq.running.map fun y =>
          if y.e.id == x.id then
            { y with g := { y.g with row := y.g.row + r.count, acc := some (maxF (y.g.acc.getD 0) r.amax) } }
          else y) ∧
    (∀ (x : NmEntry) (y : RunEntry), ((s.stack[k]).queue.find? fun z => z.core == n) = some x →
      (∀ j : StackId, j ≠ k → ∀ z ∈ (s.stack[j]).queue, ¬ (z.core = n ∧ z.id = x.id)) →
      c.stq.running = [y] → y.e.id = x.id → y.e.op.isNm = true → y.g.fail = none → SignalRoom c.arch y.e →
      y.e.a.toNat + 64 ≤ 0x800000 → y.e.a.toNat % 64 = 0 → (y.e.a.toNat + 56) / 16 ∉ c.arch.scratchPoison →
      (y.e.op = .nm .opt → (∀ a, s.serves a = true) ∧ ∀ l, s.poisoned l = false) →
      ∃ u, exec (.nmStackSilenceTimeout n k) s = Host.Outcome.next u ∧ (u.core n).stq.running = [] ∧
        (u.stack[k]).queue = (s.stack[k]).queue.filter (fun z => !(z.core == x.core && z.id == x.id)) ∧
        Signalled c.arch (u.core n).arch y.e .timeout ∧ (u.core n).flags = c.flags ||| 0x08 ∧
        (u.core n).updates.getLsbD 1 = true)

/-! ### Collectives (R213 to R216, R329 to R349) -/

/-- The 64 bytes at an offset of core n's scratch. -/
def Sys2Proof.descBytes (a : CoreArch) (o : Nat) : List Byte := (List.range 64).map fun i => a.scratch.read (o + i)

/-- The collective instruction x at the head of the CL queue of core n may start, and its descriptor is sound. -/
def Sys2Proof.CollectiveDue (s : State) (n : Core) (x : QEntry) (f : ClOp) (rest : List QEntry) : Prop :=
  let c := s.core n
  let o := x.a.toNat
  s.fastOn = true ∧ c.busy = true ∧ c.phase = .service ∧ c.stopping = false ∧ c.cl.waiting = x :: rest ∧ x.op = .cl f ∧
    x.act = true ∧ tailWcnt x.w ≤ (c.arch.semOf (tailWsem x.w)).count.toNat ∧ NothingStarted s n ∧
    o % 64 = 0 ∧ o + 64 ≤ 0x800000 ∧ (∀ y ∈ c.stale, y.1 ≤ x.id) ∧ ∀ i < 64, (o + i) / 16 ∉ c.arch.scratchPoison

/-- The checks of R216 in order, on the descriptor of a collective of core n whose communicator has configuration w. -/
def Sys2Proof.CollectiveChecked (s : State) (n : Core) (x : QEntry) (f : ClOp) (w : Word) : Prop :=
  let c := s.core n
  let d := collDesc f false (descBytes c.arch x.a.toNat)
  let a := d.active n x.id x.a.toNat
  let l := s.seat a
  d.resvOk d.count ((selectAxes w d.axes).length == d.axes % 2 + d.axes / 2) l a = true ∧ d.fmtOk 0 = true ∧
    d.alignOk = true ∧ (∀ r ∈ d.ranges l, s.reach r.1 r.2.1 = true) ∧
    (∀ r ∈ d.ranges l, ownScratch n r.1 r.2.1 = true ∨ c.covers r.2.2 r.1 r.2.1 = true) ∧ s.inVoteComm n w = true

/-- The active collective that x becomes: the next sequence number of its communicator, its signature and its input. -/
def Sys2Proof.startedColl (s : State) (n : Core) (x : QEntry) (f : ClOp) (w : Word) : Active :=
  let c := s.core n
  let d := collDesc f false (descBytes c.arch x.a.toNat)
  let b := d.active n x.id x.a.toNat
  let i := s.collInput d (s.seat b) .clean
  { b with
    seq := SMap.get 0 c.seq b.comm.toNat, r := BitVec.ofNat 2 c.rep.toNat
    sig := collSig f.code b.comm.toNat (natAt d.raw 1 1) d.efmt d.root d.width d.count d.cap c.level.toNat (commGid w)
    input := i.2.2.1, drops := i.2.2.2, shadow := s.step.modeOn == 2 && s.onD b.comm }

/-- COLLECTIVE_START completes: the collective at the head of the CL queue, its descriptor sound and its checks passed, takes
its communicator's next sequence number and its input and runs; CL.BAR, and a collective of no elements, sends ARRIVE to the
other members of its axis. One whose predicate is false only subtracts its wait count and signals OK. One whose comm is not
configured for its core takes no number and completes with SEQ_MISMATCH, which is counted.
The model's choice it rests on is log entry 53. -/
def Obligations.CollectivesStart : Prop :=
  ∀ (n : Core) (x : QEntry) (f : ClOp) (rest : List QEntry) (s : State),
    let c := s.core n
    (MayTake s n .cl x rest → x.act = false → ∀ e d : Ecc, ∃ u b, exec (.collectiveStart n e d) s = Host.Outcome.next u ∧
      OnlyCore n s u ∧ b = { c.arch with sem := b.sem } ∧ SemsAfter c.arch b x ∧ HeadGone c (u.core n) .cl rest b) ∧
    (CollectiveDue s n x f rest →
    let comm : Comm := BitVec.ofNat 8 (natAt (descBytes c.arch x.a.toNat) 0 1)
    (∀ (w : Word) (slots : BitVec 16), s.commOn comm = some (w, slots) → commCore w = n → CollectiveChecked s n x f w →
      let k := SMap.get CommSt.reset s.coll.comms comm.toNat
      let a := startedColl s n x f w
      let d := collDesc f false (descBytes c.arch x.a.toNat)
      k.heldChunks = [] → k.heldCtrl = [] → (∀ b ∈ s.coll.active, a.same b = false) → s.fab.fenced = false →
      (∀ y ∈ s.members (s.collAxes a), s.fencedCoord y = false) → (s.collInput d (s.seat a) .clean).2.1 = .ok →
      let starts := fun (b : Active) (u : State) => u.coll.active = s.coll.active ++ [b] ∧
        (∀ m, m ≠ n → u.core m = s.core m) ∧ (u.core n).cl.waiting = rest ∧
        (u.core n).cl.running.map RunEntry.e = c.cl.running.map RunEntry.e ++ [x] ∧
        (∀ j, SMap.get 0 (u.core n).seq j = SMap.get 0 c.seq j + if j = comm.toNat then 1 else 0) ∧
        (u.core n).arch = { c.arch with sem := (u.core n).arch.sem } ∧ u.welt = s.welt ∧ u.stack = s.stack
      (f ≠ .bar → f ≠ .vote → d.count ≠ 0 → a.finished (s.seat a) = false →
        ∃ u, exec (.collectiveStart n .clean .clean) s = Host.Outcome.next u ∧ starts a u ∧ u.fab = s.fab) ∧
      (∀ g : GroupAxis, f = .bar ∨ (f ≠ .vote ∧ d.count = 0) → s.collAxes a = [g] → 2 ≤ g.g →
        let peers := (List.range g.g).filter fun q => q != s.posOn g
        ∃ u, exec (.collectiveStart n .clean .clean) s = Host.Outcome.next u ∧
          starts { a with sent := peers.map (ctrlKey (g.no == 1)) } u ∧
          u.fab = (s.sendAll (peers.map fun q => s.ctrlPacket a (s.peerOn g q) (g.no == 1) 1 0)).fab)) ∧
    ((∀ w slots, s.commOn comm = some (w, slots) → commCore w ≠ n) → SignalFits c.arch x →
      ∃ u, exec (.collectiveStart n .clean .clean) s = Host.Outcome.next u ∧ (∀ m, m ≠ n → u.core m = s.core m) ∧
        u.coll = { s.coll with seqMm := satAdd s.coll.seqMm 1 } ∧ (u.core n).seq = c.seq ∧ (u.core n).cl.waiting = rest ∧
        (u.core n).cl.running = c.cl.running ∧ (u.core n).flags = c.flags ||| 0x08 ∧ u.fab = s.fab))

/-- The chunk that the first collective of a communicator is due to send goes out under a credit: one more is spent on its
flow, and it is noted as sent; a chunk without a credit or a place in the window stays. -/
def Sys2Proof.ChunksGoOut : Prop :=
  ∀ (a : Active) (rest : List Active) (key : ChunkKey) (ph : Phase) (bs : List Byte) (p : Port) (s : State),
    s.fastOn = true → s.coll.active = a :: rest → (∀ b ∈ rest, a.same b = false) →
    (s.core a.core).mx.running = [] → (s.core a.core).mv.running = [] → (s.core a.core).vx.running = [] →
    (∀ b ∈ s.coll.active, b.fused = false) → key.ctrl = false → a.got = [] → a.op ≠ .vote → a.op ≠ .bar → a.count ≠ 0 →
    let l := s.seat a
    a.nextSend l key = some (ph, key) → (∃ q ∈ begun a l (a.phases l), q.kind = ph.kind ∧ q.second = ph.second) →
    ph.sendData a l key = some bs → MaySend s (s.targetOf a key) p →
    let f := s.flowOf a.comm (s.targetOf a key) key.ph key.dir
    let b := { a with sent := a.sent ++ [key] }
    (s.maySend a key (ph.g == 2) = true → b.finished l = false →
      ∃ u, exec (.chunkSend a.comm key) s = Host.Outcome.next u ∧ u.coll.active = b :: rest ∧
        u.fab = { s.fab with inject := s.fab.inject ++ [Injected s p (s.chunkPacket a key bs)] } ∧
        u.flowOf a.comm (s.targetOf a key) key.ph key.dir = { f with spent := f.spent + 1 } ∧ u.cores = s.cores ∧
        u.welt = s.welt ∧ u.stack = s.stack) ∧
    (s.maySend a key (ph.g == 2) = false → exec (.chunkSend a.comm key) s = .next s)

/-- The core of a communicator's configuration runs on: it is neither FAULTED nor STOPPED, so that no vote is cast for it. -/
def Sys2Proof.CommCoreWell (s : State) (c : Comm) : Prop :=
  ∀ w slots, s.commOn c = some (w, slots) →
    (s.core (commCore w)).reg.run ≠ .faulted ∧ (s.core (commCore w)).reg.run ≠ .stopped

/-- A wait that ends without its chunk sends a REREQ, which is counted; after the third the collective ends with TIMEOUT,
which is counted and signalled; entries dropped for capacity raise capacity_drop as it ends. -/
def Sys2Proof.ChunkWaitsAsk : Prop :=
  ∀ (a : Active) (key : ChunkKey) (x : Coord) (p : Port) (s : State), s.fastOn = true → s.coll.active = [a] →
    s.waitsFor a key = some x →
    (a.askedFor key < 3 → s.reqOut a.comm x a key = false → MaySend s x p →
      ∃ u b, exec (.chunkWaitExpiry a.comm key) s = Host.Outcome.next u ∧ u.coll.active = [b] ∧
        b = { a with asked := b.asked } ∧ b.askedFor key = a.askedFor key + 1 ∧
        u.coll.rereq = satAdd s.coll.rereq 1 ∧ u.cores = s.cores ∧
        u.fab = { s.fab with inject := s.fab.inject ++ [Injected s p
          (s.packet x 3 6 0x20 (chunkArg a.comm a.r key.ph key.dir key.step key.idx a.sig) a.seq 0 [])] }) ∧
    (∀ y : RunEntry, 3 ≤ a.askedFor key → a.op ≠ .vote → a.fused = false → a.got = [] → (s.core a.core).mx.running = [] →
      (s.core a.core).mv.running = [] → (s.core a.core).vx.running = [] → (s.core a.core).cl.running = [y] → y.e.id = a.id →
      SignalRoom (s.core a.core).arch y.e → CommCoreWell s a.comm →
      ∃ u, exec (.chunkWaitExpiry a.comm key) s = Host.Outcome.next u ∧ u.coll.active = [] ∧
        u.coll.timeouts = satAdd s.coll.timeouts 1 ∧ (u.core a.core).cl.running = [] ∧
        Signalled (s.core a.core).arch (u.core a.core).arch y.e .timeout ∧
        (u.core a.core).flags = (s.core a.core).flags ||| (if a.drops = 0 then 0x08 else 0x88))

/-- Once they have waited, the credits owed to a source on one axis and direction return in one packet, with the congestion
mark echoed, and are no longer owed. -/
def Sys2Proof.CreditsReturn : Prop :=
  ∀ (c : Comm) (x : Coord) (ph dir : Bool) (p : Port) (s : State), s.fastOn = true → MaySend s x p →
    SMap.wf CommSt.reset s.coll.comms = true → SMap.wf Debt.reset (s.comm c).debts = true →
    let owed := fun (t : State) (a b : Bool) => SMap.get Debt.reset (t.comm c).debts (flowKey x a b)
    let d := owed s ph dir
    d.count ≠ 0 → (∀ a b, ¬ (a = ph ∧ b = dir) → (owed s a b).count = 0) →
    ∃ u, exec (.creditBatchTimer c x) s = Host.Outcome.next u ∧ owed u ph dir = Debt.reset ∧ u.cores = s.cores ∧
      u.stack = s.stack ∧ u.fab = { s.fab with inject := s.fab.inject ++ [Injected s p
        { s.packet x 3 5 0x20 (chunkArg c d.r ph dir 0 d.count 0) d.seq 0 [] with echo := d.echo }] }

/-- Chunks go out under credits, waits for chunks ask for them again, and credits return.
The model's choices it rests on are log entries 53, 54, 63. -/
def Obligations.CollectiveChunks : Prop := ChunksGoOut ∧ ChunkWaitsAsk ∧ CreditsReturn

/-- A good packet of this part's own comes in on port p, which takes packets, and passes every check of R301. -/
def Sys2Proof.Arrives (s : State) (p : Port) (k : Packet) (kind : Nat) : Prop :=
  s.portOpen p = true ∧ s.discard p k = none ∧ k.dst = s.coord ∧ k.kind.toNat = kind

/-- What a CHUNK, a CREDIT, a REREQ and a CTRL do. A chunk for a collective not started is held; one that an active
collective expects joins what it has; one of a key that is past is dropped, counted, and its slot's credit owed. A CREDIT
lowers what its flow has spent. A REREQ for a chunk that was sent and whose credit has not returned sends it again and
spends nothing. A CTRL of a collective not started is held in a list of 16 and counted as dropped beyond. Each leaves its place at port p's
input, whose credit is returned.
The model's choices it rests on are log entries 55, 56, 63, 64. -/
def Obligations.CollectivePacketsAct : Prop :=
  ∀ (p : Port) (k : Packet) (s : State),
    let c := chunkComm k
    let m := SMap.get CommSt.reset s.coll.comms c.toNat
    let s' := s.freePlace p (inChannel k)
    let into := fun (i : Instr) (h : CommSt) => ∃ u, exec i s = Host.Outcome.next u ∧ u.cores = s.cores ∧
      u.coll.active = s.coll.active ∧ SMap.get CommSt.reset u.coll.comms c.toNat = h ∧ u.fab = s'.fab
    (Arrives s p k 4 →
      (s.fateOf k = .hold → into (.chunkReceive p k) { m with heldChunks := m.heldChunks ++ [k] }) ∧
      (s.fateOf k = .drop → (s.commOn c).isSome = true →
        let o := flowKey k.src (chunkPh k) (chunkDir k)
        let d := SMap.get Debt.reset m.debts o
        d.count + 1 < 8 →
        ∃ u, exec (.chunkReceive p k) s = Host.Outcome.next u ∧ u.cores = s.cores ∧ u.fab = s'.fab ∧
          u.coll = { s.coll with dropped := satAdd s.coll.dropped 1, comms := u.coll.comms } ∧
          SMap.get Debt.reset (SMap.get CommSt.reset u.coll.comms c.toNat).debts o =
            { count := d.count + 1, echo := d.echo || k.mark, r := chunkR k, seq := k.ctx }) ∧
      (∀ a : Active, s.coll.active = [a] → s.fateOf k = .act a → chunkSig k = a.sig → a.op ≠ .vote → a.op ≠ .bar →
        a.count ≠ 0 → a.fused = false → a.got = [] → (s.core a.core).mx.running = [] → (s.core a.core).mv.running = [] →
        (s.core a.core).vx.running = [] →
        let l := s.seat a
        let key : ChunkKey := { ctrl := false, gather := a.op == .ag, ph := chunkPh k, dir := chunkDir k
                                step := chunkStep k, idx := chunkIdx k, peer := 0 }
        ∀ ph : Phase, a.phaseOf l key = some ph → key ∈ ph.recvKeys a l key.dir → s.sourceOf a key = k.src →
          (a.op = .ar → a.isGather l key k.payload.length = false) →
          let b := { a with got := [{ key := key, data := k.payload, mark := k.mark, freed := false }] }
          b.released l ph key = false →
          ∃ u, exec (.chunkReceive p k) s = Host.Outcome.next u ∧ u.coll = { s.coll with active := [b] } ∧
            u.cores = s.cores ∧ u.fab = s'.fab ∧ u.welt = s.welt ∧ u.stack = s.stack)) ∧
    (Arrives s p k 5 → ∀ w slots, s.commOn c = some (w, slots) → SMap.wf Flow.reset m.flows = true →
      let f := s.flowOf c k.src (chunkPh k) (chunkDir k)
      ∃ u, exec (.creditReceive p k) s = Host.Outcome.next u ∧ u.cores = s.cores ∧ u.coll.active = s.coll.active ∧ u.fab = s'.fab ∧
        let g := u.flowOf c k.src (chunkPh k) (chunkDir k)
        let t := creditsOf w slots.toNat
        g.spent = f.spent - chunkIdx k ∧
        (k.echo = true → f.wait = 0 → t - g.cut = min t (max 1 ((t - f.cut) / 2)))) ∧
    (Arrives s p k 6 → ∀ (a : Active) (gath : Bool) (q : Port) (ph : Phase) (bs : List Byte), s.coll.active = [a] → s.fateOf k = .act a →
      chunkSig k = a.sig → a.byCtrl = false → a.fused = false → (s.core a.core).mx.running = [] →
      (s.core a.core).mv.running = [] → (s.core a.core).vx.running = [] →
      let l := s.seat a
      let key : ChunkKey := { ctrl := false, gather := gath, ph := chunkPh k, dir := chunkDir k, step := chunkStep k
                              idx := chunkIdx k, peer := 0 }
      (gath = true → { key with gather := false } ∉ a.sent) → key ∈ a.sent → s.targetOf a key = k.src →
      s.sentAfter a key < (s.flowOf a.comm k.src key.ph key.dir).spent → a.phaseOf l key = some ph →
      ph.sendData a l key = some bs → MaySend s (s.targetOf a key) q →
      ∃ u, exec (.rereqReceive p k) s = Host.Outcome.next u ∧
        u = { s' with fab := { s'.fab with inject := s'.fab.inject ++ [Injected s q (s.chunkPacket a key bs)] } }) ∧
    (∀ (i : Instr) (sub : Nat), (i, sub) ∈ [(Instr.ctrlArriveReceive p k, 1), (Instr.ctrlVoteReceive p k, 2), (Instr.ctrlAbortReceive p k, 3)] →
      Arrives s p k 7 → ctrlSub k = sub → s.fateOf k = .hold →
      CommCoreWell s c →
      if m.heldCtrl.length < 16 then into i { m with heldCtrl := m.heldCtrl ++ [k] }
      else ∃ u, exec i s = Host.Outcome.next u ∧ u = { s' with coll := { s.coll with dropped := satAdd s.coll.dropped 1 } })

/-- The one active collective a of its core, of instruction y, whose engines are idle; its communicator's core runs on. -/
def Sys2Proof.AloneActive (s : State) (a : Active) (y : RunEntry) : Prop :=
  let c := s.core a.core
  s.coll.active = [a] ∧ a.op ≠ .vote ∧ a.fused = false ∧ c.mx.running = [] ∧ c.mv.running = [] ∧ c.vx.running = [] ∧
    c.cl.running = [y] ∧ y.e.id = a.id ∧ SignalRoom c.arch y.e ∧ a.desc + 40 ≤ 0x800000 ∧ CommCoreWell s a.comm

/-- A barrier on one axis completes with OK at the last ARRIVE; an ABORT ends an active collective with the status it
carries, and a packet whose signature differs ends it with SEQ_MISMATCH, which is counted (R334, R341, R349). Entries dropped
for capacity raise capacity_drop as it ends (R346).
The model's choice it rests on is log entry 59. -/
def Obligations.CollectivesEndByControl : Prop :=
  ∀ (p : Port) (k : Packet) (a : Active) (y : RunEntry) (s : State), AloneActive s a y → s.fateOf k = .act a →
    let fab := (s.freePlace p (inChannel k)).fab
    let ends := fun (i : Instr) (st : Status) (u : State) => exec i s = Host.Outcome.next u ∧ u.coll.active = [] ∧
      (u.core a.core).cl.running = [] ∧ Signalled (s.core a.core).arch (u.core a.core).arch y.e st ∧
      (u.core a.core).flags = (s.core a.core).flags ||| st.flag ||| (if a.drops = 0 then 0 else 0x80) ∧
      (∀ m, m ≠ a.core → u.core m = s.core m)
    (∀ g : GroupAxis, Arrives s p k 7 → ctrlSub k = 1 → chunkSig k = a.sig → a.got = [] → a.op = .bar → a.count = 0 → a.norm = false →
      a.bad = false → a.drops = 0 → (∀ i < 4, (a.desc + 36 + i) / 16 ∉ (s.core a.core).arch.scratchPoison) → s.step.modeOn = 0 → s.collAxes a = [g] → chunkPh k = (g.no == 1) → g.no ≤ 1 → k.src ∈ s.members [g] →
      (∀ q < g.g, q ≠ s.posOn g → ctrlKey (g.no == 1) q ∈ a.sent ∧
        (q ≠ coordAt k.src g.ax - g.base → ∃ v, (g.no == 1, q, v) ∈ a.ctrl)) →
      ∃ u, ends (.ctrlArriveReceive p k) .ok u ∧ u.fab = fab) ∧
    (∀ st : Status, Arrives s p k 7 → ctrlSub k = 3 → chunkSig k = a.sig → a.got = [] → Status.ofCode (ctrlVal k) = some st →
      ∃ u, ends (.ctrlAbortReceive p k) st u ∧ u.fab = fab) ∧
    (∀ i sub kind, (i, sub, kind) ∈ [(Instr.ctrlArriveReceive p k, 1, 7), (.ctrlVoteReceive p k, 2, 7), (.ctrlAbortReceive p k, 3, 7),
        (.chunkReceive p k, ctrlSub k, 4), (.rereqReceive p k, ctrlSub k, 6)] →
      Arrives s p k kind → ctrlSub k = sub → chunkSig k ≠ a.sig → a.got = [] →
      ∃ u, ends i .seqMismatch u ∧ u.coll.seqMm = satAdd s.coll.seqMm 1)

/-! ### The step protocol (R255, R256, R356 to R372, R374, R375, R379) -/

/-- Some voter of the part has neither voted nor sealed, nor contributes by its state. -/
def Sys2Proof.SomeVoterDue (s : State) : Prop :=
  ∃ m : Core, (s.core m).votes = true ∧ (s.core m).voted = false ∧ (s.core m).sealed = false ∧ (s.core m).byState = false

/-- A STEP packet of a subtype and of this part's vote group comes in, and the part takes part in votes. -/
def Sys2Proof.StepArrives (s : State) (p : Port) (k : Packet) (sub : Nat) : Prop :=
  Arrives s p k 9 ∧ (stepKey k).2.2.1 = sub ∧ k.ctx = s.vgidNow ∧ s.mayVote = true

/-- A VOTE or SEAL of an earlier pair, or one already held, is dropped; any other is held. A RESEND is answered with every
packet kept for its epoch, attempt and phase axis, and one for a pair or phase not reached is held once. A DIGEST that is the
first of its sender is kept, and one of an earlier pair or of a pair its sender has given is dropped. A packet of another vote
group is dropped. Each leaves its place at port p's input, whose credit is returned.
The model's choices it rests on are log entries 67, 68. -/
def Obligations.StepPacketsAct : Prop :=
  ∀ (p : Port) (k : Packet) (s : State),
    let key := stepKey k
    let s' := s.freePlace p (inChannel k)
    let kept := { s' with step := { s.step with held := s.step.held ++ [k] } }
    (∀ i sub, (i, sub) ∈ [(Instr.stepVoteReceive p k, 1), (.stepSealReceive p k, 2)] → StepArrives s p k sub →
      (s.earlier key.1 key.2.1 = true ∨ s.heldAlready k = true → exec i s = .next s') ∧
      (s.earlier key.1 key.2.1 = false → s.heldAlready k = false → s.step.flagSent = false → s.step.sealSent = false →
        SomeVoterDue s → exec i s = .next kept)) ∧
    (∀ (q : Port) (x : Packet), StepArrives s p k 3 → MaySend s x.dst q → x.src = s.coord →
      s.earlier key.1 key.2.1 = true ∨ (s.current key.1 key.2.1 = true ∧ s.reached key.2.2.2 = true) →
      (s.step.kept.filter fun y =>
        y.dst == k.src && key.1 == (stepKey y).1 && key.2.1 == (stepKey y).2.1 && key.2.2.2 == (stepKey y).2.2.2) = [x] →
      exec (.stepResendReceive p k) s =
        .next { s' with fab := { s'.fab with inject := s'.fab.inject ++ [Injected s q x] } }) ∧
    (StepArrives s p k 3 → s.earlier key.1 key.2.1 = false → ¬ (s.current key.1 key.2.1 = true ∧ s.reached key.2.2.2 = true) →
      exec (.stepResendReceive p k) s = .next (if s.heldAlready k = true then s' else kept)) ∧
    (StepArrives s p k 4 → s.earlier key.1 key.2.1 = false →
      (∀ g ∈ s.step.digestGot, g.1 ≠ k.src ∧ s.earlier (g.2.1.toNat / 256) (g.2.1.toNat % 256) = false) →
      exec (.stepDigestReceive p k) s = .next { s' with step := { s.step with digestGot := s.step.digestGot ++
        [(k.src, BitVec.ofNat 64 (key.1 * 256 + key.2.1), BitVec.ofNat 64 (natAt k.payload 0 8))] } }) ∧
    (StepArrives s p k 4 → s.earlier key.1 key.2.1 = true ∨
        (∃ g ∈ s.step.digestGot, g.1 = k.src ∧ g.2.1 = BitVec.ofNat 64 (key.1 * 256 + key.2.1)) →
      exec (.stepDigestReceive p k) s = .next s') ∧
    (Arrives s p k 9 → k.ctx ≠ s.vgidNow → ∀ i ∈ [Instr.stepVoteReceive p k, .stepSealReceive p k, .stepResendReceive p k,
      .stepDigestReceive p k], exec i s = .next s')

/-- The word of the last part of the last phase of a round: the round's result is this part's word with the words of its
line, it is the flag round's or the seal round's, and the step interrupt is raised. -/
def Sys2Proof.RoundsCombine : Prop :=
  ∀ (p : Port) (k : Packet) (s : State), s.earlier (stepKey k).1 (stepKey k).2.1 = false → s.heldAlready k = false →
    (stepKey k).1 = s.epoch.toNat → (stepKey k).2.1 = s.step.attempt.toNat → (stepKey k).2.2.2 = s.step.phase →
    s.step.phase < 4 → (∀ j, s.step.phase < j → j < 4 → (groupAxis s.step.grpOn j).2 = 1) →
    (groupAxis s.step.grpOn s.step.phase).2 ≠ 1 →
    k.src ∈ s.line s.step.phase → (∀ x ∈ s.line s.step.phase, x ≠ k.src → (s.phaseWord s.step.phase x).isSome = true) →
    (s.phaseWord s.step.phase k.src = none) → s.awl.onVote = false → s.step.autoOn = false → SomeVoterDue s →
    s.step.flagSent = true →
    let word := (s.line s.step.phase).foldl
      (fun w x => w ||| if x = k.src then BitVec.ofNat 16 (natAt k.payload 0 2) else (s.phaseWord s.step.phase x).getD 0)
      s.step.word
    (StepArrives s p k 1 → s.step.flagDone = false → s.step.sealing = false → s.step.sealSent = false →
      ∃ u, exec (.stepVoteReceive p k) s = Host.Outcome.next u ∧ u.step.flagWord = word ∧ u.step.flagDone = true ∧
        u.voteResult = word ||| (if u.step.sealDone then u.step.sealWord else 0) ∧ u.ctx.pend.getLsbD 16 = true ∧
        u.cores = s.cores ∧ u.stack = s.stack ∧ u.fab = (s.freePlace p (inChannel k)).fab) ∧
    (StepArrives s p k 2 → s.step.flagDone = true → s.step.sealing = true → s.step.sealSent = true → s.step.sealDone = false →
      ∃ u, exec (.stepSealReceive p k) s = Host.Outcome.next u ∧ u.step.sealWord = word ∧ u.step.sealDone = true ∧
        u.voteResult = s.step.flagWord ||| word ∧ u.ctx.pend.getLsbD 16 = true ∧ u.cores = s.cores ∧ u.stack = s.stack ∧
        u.fab = (s.freePlace p (inChannel k)).fab)

/-- A vote wait that ends sends a RESEND, up to three; the fourth marks the part absent, which sets bit 8 of its word. -/
def Sys2Proof.VoteWaitsEnd : Prop :=
  ∀ (x : Coord) (q : Port) (s : State), s.mayVote = true → s.awaits x = true →
    let asked := ((s.step.resends.find? fun r => r.1 == x).map Prod.snd).getD 0
    (asked < 3 → MaySend s x q →
      ∃ u, exec (.voteWaitExpiry x) s = Host.Outcome.next u ∧
        ((u.step.resends.find? fun r => r.1 == x).map Prod.snd) = some (asked + 1) ∧
        u = { s with step := { s.step with resends := u.step.resends }
                     fab := { s.fab with inject := s.fab.inject ++
                       [Injected s q (s.stepPacket x 3 s.step.phase [])] } }) ∧
    (3 ≤ asked → SomeVoterDue s → s.step.flagSent = true →
      (∃ y ∈ s.line s.step.phase, y ≠ x ∧ s.phaseWord s.step.phase y = none) → s.step.phase < 4 →
      (groupAxis s.step.grpOn s.step.phase).2 ≠ 1 →
      exec (.voteWaitExpiry x) s = .next { s with step := { s.step with got := s.step.got ++ [(x, 0x100)] } })

/-- The rounds of the step vote and the waits that end them.
The model's choices it rests on are log entries 3, 67. -/
def Obligations.VoteRounds : Prop := RoundsCombine ∧ VoteWaitsEnd

/-- What an abort leaves on state s, before the rounds go on: every stack has the decision to abort, nothing sealed or held for
a seal is left, the attempt advances, the epoch stays, and every core at STEP.COMMIT has ABORTED in its sd, empty rings, banks and heel, and runs (R365). -/
def Sys2Proof.Aborted (s u : State) : Prop :=
  (∀ k : StackId, (u.stack[k]).decisions = (s.stack[k]).decisions ++ [false]) ∧
    (∀ n : Core, (u.core n).sealed = false ∧ (u.core n).sealWord = 0 ∧ (u.core n).flagsHeld = 0) ∧ u.step.attempt = s.step.attempt + 1 ∧ u.step.decision = .abort ∧
    u.step.flagWord = s.step.flagWord ∧ u.step.sealWord = s.step.sealWord ∧ u.epoch = s.epoch ∧
    ∀ n : Core, ∀ sd, (s.core n).hold = .commitWait sd →
      (u.core n).reg.run = .running ∧ (∀ i < 64, (u.core n).arch.sreg i =
        if i = sd.toNat ∧ sd.toNat ≠ 0 then 0x11 else (s.core n).arch.sreg i) ∧
      (∀ r ∈ (u.core n).arch.ring.toList, ∀ y ∈ r.slots, y.st = .empty) ∧
      (∀ b ∈ (u.core n).arch.bank.toList, b.loaded = false) ∧ (∀ a, (u.core n).arch.heel.read a = 0) ∧
      (u.core n).arch.pc = (s.core n).arch.pc + 8

/-- The writes of CLE_DECIDE end as R363's table says, in its order.
The model's choice it rests on is log entry 69. -/
def Obligations.DecisionsAreTaken : Prop :=
  ∀ (e : BitVec 32) (a : Byte) (r : BitVec 16) (s : State),
    let ends := fun (i : Instr) (st : Status) =>
      exec i s = Host.Outcome.next { s with step := { s.step with lastStatus := st } }
    let aborts := fun (i : Instr) (st : Status) =>
      ∃ u, exec i s = Host.Outcome.next u ∧ Aborted s u ∧ u.step.lastStatus = st
    let quiet := (∃ m : Core, (s.core m).votes = true ∧ (s.core m).byState = false) ∧ s.batchReady s.epoch.toNat = false
    if s.taken e a = true then ends (.cleDecideCommit e a r) .alreadyDone ∧ ends (.cleDecideAbort e a r) .alreadyDone
    else if s.tooSoon e a = true then ends (.cleDecideCommit e a r) .busy ∧ ends (.cleDecideAbort e a r) .busy
    else
      (quiet → aborts (.cleDecideAbort e a r) .ok) ∧
      (if s.fab.fenced = true then quiet → aborts (.cleDecideCommit e a r) .fenced
      else if s.step.sealDone = false then ends (.cleDecideCommit e a r) .busy
      else if r ≠ 0 ∨ s.voteResult ≠ 0 then quiet → aborts (.cleDecideCommit e a r) .aborted
      else ∃ u, exec (.cleDecideCommit e a r) s = Host.Outcome.next u ∧ 
          (∀ k : StackId, (u.stack[k]).decisions = (s.stack[k]).decisions ++ [true]) ∧
        u.step.decision = .commit ∧ u.step.lastStatus = .ok ∧ u.epoch = s.epoch ∧ u.cores = s.cores)

/-- A stack that is free to act does what the oldest decision it holds says: on a commit the copy of E+1 of every written granule
becomes its committed copy and the former copies are noted; on an abort the committed copies stay; either way nothing is
written, the records of the granules written are left to settle, and no byte moves. A stack whose records are not settled, or
whose granules an earlier near-memory command still writes, waits. Each settle takes one record.
The model's choices it rests on are log entries 69, 70. -/
def Obligations.StacksActOnDecisions : Prop :=
  ∀ (k : StackId) (b : Bool) (s : State), s.fastOn = true → 
    let x := s.stack[k]
    (∀ rest, x.decisions = b :: rest → x.state = .ready →
      ((x.table.unsettled ≠ [] ∨ s.positionDue k = true ∨ s.nmHolds k = true) → exec (.stackDecisionAct ⟨k, .clean⟩) s = .next s) ∧
      (x.table.unsettled = [] → s.positionDue k = false → s.nmHolds k = false → x.table.written.Nodup →
      (∀ y ∈ x.late, s.step.given - rest.length < y.1) →
      ∃ u, exec (.stackDecisionAct ⟨k, .clean⟩) s = Host.Outcome.next u ∧
        u.stack[k] = { x with
          decisions := rest
          table := { twin := (u.stack[k]).table.twin, written := [], unsettled := (u.stack[k]).table.unsettled
                     former := if b then x.table.written else x.table.former } } ∧
        (∀ g, g ∈ (u.stack[k]).table.unsettled ↔ g ∈ x.table.written) ∧
        (∀ g, (u.stack[k]).table.twin.contains g =
          if b && x.table.written.contains g then !x.table.twin.contains g else x.table.twin.contains g) ∧
        (∀ h t, (u.stack[k]).committedAt h t = if b then x.nextAt h t else x.committedAt h t) ∧
        (∀ j : StackId, j ≠ k → u.stack[j] = s.stack[j]) ∧ u.cores = s.cores ∧ u.welt = s.welt)) ∧
    (x.state = .ready → exec (.epochSettle ⟨k, .clean⟩) s =
      .next { s with stack := vput s.stack k { x with table := { x.table with unsettled := x.table.unsettled.tail } } })

/-- Once every stack has acted on a commit, every copy of the epoch advances by 1, the attempt count becomes 0, every core
at STEP.COMMIT has OK in its sd and runs, and the replay record holds the attempt decided.
The model's choices it rests on are log entries 22, 131. -/
def Obligations.CommitsFinish : Prop :=
  ∀ s : State, s.fastOn = true → s.step.committing = some true → (∀ k : StackId, (s.stack[k]).decisions = []) →
    (∃ m : Core, (s.core m).votes = true ∧ (s.core m).byState = false) → s.ing.state = .idle →
    ∃ u, exec .commitFinish s = Host.Outcome.next u ∧ u.step.attempt = 0 ∧ u.step.committing = none ∧
      (∀ n : Core, (u.core n).reg.srepoch = (s.core n).reg.srepoch + 1) ∧
      (∀ k : StackId, (u.stack[k]).srepoch = (s.stack[k]).srepoch + 1 ∧ (u.stack[k]).dram = (s.stack[k]).dram) ∧
      (∀ n : Core, ∀ sd, (s.core n).hold = .commitWait sd → (u.core n).reg.run = .running ∧
        ∀ i < 64, (u.core n).arch.sreg i = if i = sd.toNat ∧ sd.toNat ≠ 0 then 0 else (s.core n).arch.sreg i) ∧
      u.awl.rplrec[0] = BitVec.ofNat 64 (s.voteResult.toNat + s.step.attempt.toNat * 2 ^ 24 + s.epoch.toNat * 2 ^ 32) ∧
      u.awl.rplrec[1] = s.stepSeed ∧ u.awl.rplrec[2] = s.ing.gSeed ∧ u.welt = s.welt ∧ u.fab = s.fab

/-- A stack's epoch table, which lies in its maintenance area while its logic die is reset (R277). -/
def Sys2Proof.tableOf (k : Stack) : EpochTable := if k.saved then k.maint else k.table

/-- The step configuration changes only while no core is WAITING; leaving shadow before 8 matches is refused with BUSY; a
rewind while the snapshot holds and no core runs steps every copy of the epoch back by 1 and gives every granule of the
last commit its former copy back, and at any other time writes BUSY and changes nothing.
The model's choices it rests on are log entries 68, 69. -/
def Obligations.StepConfiguration : Prop :=
  ∀ (v : Word) (s : State),
    (if ∃ m : Core, (s.core m).reg.run = .waiting then ∀ g, exec (.cleStepcfgWrite g v) s = .next s
    else
      exec (.cleStepcfgWrite true v) s = .next { s with step := { s.step with grp := v.truncate 32 } } ∧
      exec (.cleStepcfgWrite false v) s = .next { s with step := { s.step with
        vgid := BitVec.ofNat 16 (bitsOf v 63 48), vto := BitVec.ofNat 16 (bitsOf v 47 32), autoAbort := v.getLsbD 0 } }) ∧
    (if s.step.mode = 2 ∧ s.step.matched.toNat < 8 then
      exec (.cleShadowModeWrite 0) s = .next { s with step := { s.step with shStatus := .busy } }
    else exec (.cleShadowModeWrite 0) s = .next { s with step := { s.step with mode := 0, shStatus := .ok } }) ∧
    (∀ m ∈ [(1 : BitVec 2), 2], exec (.cleShadowModeWrite m) s =
      .next { s with step := { s.step with mode := m, shStatus := .ok } }) ∧
    (if s.awl.snapValid = true ∧ ∀ n : Core, (s.core n).reg.run ≠ .running ∧ (s.core n).reg.run ≠ .waiting then
      ∃ u, exec .awlRewind s = Host.Outcome.next u ∧ u.awl.rewStatus = .ok ∧ u.awl.snapValid = false ∧
        u.step.attempt = 0 ∧ (∀ n : Core, (u.core n).reg.srepoch = (s.core n).reg.srepoch - 1) ∧
        ∀ k : StackId, (u.stack[k]).srepoch = (s.stack[k]).srepoch - 1 ∧ (u.stack[k]).dram = (s.stack[k]).dram ∧
          (u.stack[k]).state = (s.stack[k]).state ∧
          let x := tableOf s.stack[k]
          let y := tableOf u.stack[k]
          y.former = [] ∧ y.written = x.written ∧ (∀ g, g ∈ y.unsettled ↔ g ∈ x.unsettled ∨ g ∈ x.former) ∧
            (x.former.Nodup → ∀ g, y.twin.contains g = if x.former.contains g then !x.twin.contains g else x.twin.contains g)
    else exec .awlRewind s = .next { s with awl := { s.awl with rewStatus := .busy } })

/-! ### The fabric's ports (R288 to R294, R306, R314 to R317) -/

/-- The command i takes port p to a state with a reason; of the other ports, the cores, the stacks and the collectives
nothing changes. -/
def Sys2Proof.PortEnds (i : Instr) (s : State) (p : Port) (st : LinkState) (reason : BitVec 4) (P : FabPort → Prop) : Prop :=
  ∃ u, exec i s = Host.Outcome.next u ∧ u.fab.port[p].state = st ∧ u.fab.port[p].reason = reason ∧ P u.fab.port[p] ∧
    (∀ q : Port, q ≠ p → u.fab.port[q] = s.fab.port[q]) ∧ u.cores = s.cores ∧ u.stack = s.stack ∧ u.coll = s.coll

/-- Where a port goes that goes DOWN for a reason that lets it train at once: an axis without lanes stays DOWN with reason
2, a disabled port DOWN, any other trains. -/
def Sys2Proof.DownEnds (i : Instr) (s : State) (p : Port) (reason : BitVec 4) (off : Bool) (P : FabPort → Prop) : Prop :=
  if s.portLanes p = 0 then PortEnds i s p .down 2 P
  else if off then PortEnds i s p .down reason P
  else PortEnds i s p .training reason P

/-- Training, identification, retraining, disabling and the loss of a link take a port from state to state as R289, R290 and
R315 say.
The model's choices it rests on are log entries 3, 12, 71, 72. -/
def Obligations.PortsChangeState : Prop :=
  ∀ (p : Port) (s : State),
    let x := s.fab.port[p]
    let lanes := s.portLanes p
    let any := fun (_ : FabPort) => True
    DownEnds (.fabPortRetrain p) s p 1 x.disable any ∧
    (x.state.trained = true → PortEnds (.fabPortIdent p) s p .identify x.reason any) ∧
    DownEnds (.fabPortDisable p true) s p 1 true (fun y => y.disable = true) ∧
    (if x.state = .down ∧ lanes ≠ 0 ∧ x.reason ≠ 4 ∧ x.reason ≠ 5 ∧ x.reason ≠ 6 then
      PortEnds (.fabPortDisable p false) s p .training x.reason fun y => y.disable = false
    else PortEnds (.fabPortDisable p false) s p x.state x.reason fun y => y = { x with disable := false }) ∧
    (s.fastOn = true → x.state = .training →
      DownEnds (.trainingTimeout p) s p 3 x.disable any ∧
      ∀ mask : BitVec 8,
        if mask.toNat % 2 ^ lanes = 0 then DownEnds (.portTrainingComplete p mask) s p 3 x.disable any
        else PortEnds (.portTrainingComplete p mask) s p .identify x.reason fun y =>
          y.lanesOk.toNat = mask.toNat % 2 ^ lanes ∧ y.width.toNat = popCount y.lanesOk) ∧
    (s.fastOn = true → x.state = .identify → lanes ≠ 0 → PortEnds (.identifyTimeout p) s p .down 4 any) ∧
    (s.fastOn = true → x.state = .down → x.auto = true → x.disable = false → lanes ≠ 0 → x.reason = 4 ∨ x.reason = 6 →
      PortEnds (.autoRetrainTimer p) s p .training x.reason any) ∧
    (s.fastOn = true → x.state.trained = true → lanes ≠ 0 →
      PortEnds (.laneLossOfLock p) s p .down 6 (fun y => y.downs = satAdd x.downs 1) ∧
      ∀ j : Nat, PortEnds (.fecErrorLimit ⟨p, j⟩) s p .down 6 fun y => y.downs = satAdd x.downs 1 ∧ y.fecUe = satAdd x.fecUe j)

/-- What the checks of R293, in order, make of a frame received on a port of a part that is not fenced and whose
partner is not: a state and a reason. -/
def Sys2Proof.frameVerdict (p : Port) (last : Word) (f : List Byte) : LinkState × BitVec 4 :=
  let lo := natAt f 7 1 % 16
  let hi := natAt f 7 1 / 16
  if ¬ (lo ≤ hi ∧ lo ≤ 2 ∧ 1 ≤ hi) then (.down, 5)
  else if natAt f 1 1 % 8 ≠ (if p.val % 2 = 0 then p.val + 1 else p.val - 1) then (.quarantine, 8)
  else if natAt f 2 2 ≠ bitsOf last 15 0 then (.quarantine, 7)
  else if bitsOf last 31 16 ≠ 0 ∧ natAt f 8 2 ≠ bitsOf last 31 16 then (.quarantine, 9)
  else if bitsOf last 63 32 ≠ 0 ∧ natAt f 12 4 ≠ bitsOf last 63 32 then (.quarantine, 10)
  else if natAt f 1 1 / 8 % 2 = 1 then (.up, 0)
  else (.quarantine, 11)

/-- A trained port sends a 24-byte frame whose CRC is good and that carries its coordinate and the coordinate it expects;
a valid frame is recorded and takes the port where the checks of R293 say; one that is not valid changes nothing.
The model's choices it rests on are log entries 72, 74. -/
def Obligations.IdentityFrames : Prop :=
  ∀ (p : Port) (s : State), s.fastOn = true →
    let x := s.fab.port[p]
    (x.state.trained = true → ∀ lane csym,
      ∃ u, exec (.identityFrameSend p lane csym) s = Host.Outcome.next u ∧ OnlyPort p s u ∧
        let f := u.fab.port[p].frame
        frameValid f = true ∧ natAt f 2 2 = s.coord.toNat ∧ natAt f 4 2 = bitsOf x.last 15 0 ∧
          natAt f 1 1 % 8 = p.val ∧ u.fab.port[p] = { x with frame := f }) ∧
    (∀ f : List Byte, frameValid f = false → exec (.identityFrameReceive p f) s = .next s) ∧
    (∀ f : List Byte, frameValid f = true → (x.state = .identify ∨ x.state = .quarantine ∨ x.state = .up) →
      s.fab.fenced = false → natAt f 1 1 / 16 % 2 = 0 → s.fencedCoord (BitVec.ofNat 16 (natAt f 2 2)) = false →
      let v := frameVerdict p x.last f
      PortEnds (.identityFrameReceive p f) s p v.1 v.2 fun y =>
        y.heard = true ∧ y.part = fields [(0, natAt f 2 2), (16, natAt f 8 2), (32, natAt f 12 4)] ∧
          y.fwGen = BitVec.ofNat 16 (natAt f 10 2) ∧ (v.1 = .up → y.accept = true))

/-- The writes of the fabric's registers: the counters clear, injection stops or goes on, the coordinate and extents are
taken while every port is DOWN, the Last's entry is kept, and lane_apply answers BUSY while a port is not DOWN and
disabled, gives the code of the first failing check, and otherwise puts the split and the extents in effect. A credit that
comes back gives a place, up to four; a recalibration changes nothing.
The model's choices it rests on are log entries 72, 76. -/
def Obligations.FabricRegisters : Prop :=
  ∀ (p : Port) (v : Word) (s : State),
    let f := s.fab
    (∃ u, exec .fabClrCnt s = Host.Outcome.next u ∧
      u = { s with fab := { f with ftblFull := 0, discRoute := 0, discFenced := 0, discBad := 0, port := u.fab.port } } ∧
      ∀ q : Port, u.fab.port[q] = { f.port[q] with downs := 0, drop := 0, fecUe := 0, crc := 0 }) ∧
    (∀ b, exec (.fabInjectStop b) s = .next { s with fab := { f with injectStop := b } }) ∧
    (if ∀ q : Port, f.port[q].state = .down then
      ∃ u, exec (.fabTopoWrite v) s = Host.Outcome.next u ∧
        u = { s with fab := { f with extD := u.fab.extD, extP := u.fab.extP, extC := u.fab.extC, extT := u.fab.extT, d := u.fab.d
                                     p := u.fab.p, c := u.fab.c, t := u.fab.t } } ∧
        u.fab.extD ++ u.fab.extP ++ u.fab.extC ++ u.fab.extT ++ u.fab.d ++ u.fab.p ++ u.fab.c ++ u.fab.t = v
    else exec (.fabTopoWrite v) s = .next s) ∧
    (∃ u, exec (.fabLastWrite p v) s = Host.Outcome.next u ∧ OnlyPort p s u ∧ u.fab.port[p] = { f.port[p] with last := v }) ∧
    (let free := ∀ q : Port, f.port[q].state = .down ∧ f.port[q].disable = true
     (¬ free → exec .fabLaneApply s = .next { s with fab := { f with lastStatus := .busy } }) ∧
     (free → f.laneErr ≠ 0 → exec .fabLaneApply s =
       .next { s with fab := { f with lastStatus := .ok, cfgErr := BitVec.ofNat 4 f.laneErr } }) ∧
     (free → f.laneErr = 0 → ∃ u, exec .fabLaneApply s = Host.Outcome.next u ∧ u.fab.lastStatus = .ok ∧ u.fab.cfgErr = 0 ∧
       u.fab.lanesOn = f.lanes ∧ u.fab.extOn = #v[f.extT, f.extC, f.extP, f.extD] ∧
       (∀ q : Port, u.fab.port[q].state = .down ∧
         u.fab.port[q].reason = if bitsOf f.lanes (q.val / 2 * 4 + 3) (q.val / 2 * 4) = 0 then 2 else 1) ∧
       u.cores = s.cores ∧ u.stack = s.stack)) ∧
    (s.portOpen p = true → ∀ vc : Fin 8, ∃ u, exec (.linkCreditReturn p vc) s = Host.Outcome.next u ∧ OnlyPort p s u ∧
      u.fab.port[p] = { f.port[p] with credit := vput f.port[p].credit vc (min 4 (f.port[p].credit[vc] + 1)) }) ∧
    exec (.fabricLaneRecal p) s = .next s

/-! ### Fencing (R311 to R313, R320, R321, R324) -/

/-- A fence stops the router for good until its token lifts it: the ports that identify, quarantine or are UP become FENCED
with reason 12, every packet held is discarded, and a part that was READY, JOINED or ACTIVE is FENCED; the token kept lifts
it, and any other is ignored. -/
def Sys2Proof.FencesNeedTheirToken : Prop :=
  ∀ (token : BitVec 24) (s : State),
    let kept := { s with fab := { s.fab with tokenReg := token } }
    (s.fab.fenced = true → exec (.fabFenceSet token) s = .next kept) ∧
    (s.fab.fenced = false → s.coll.active = [] →
      ∃ u, exec (.fabFenceSet token) s = Host.Outcome.next u ∧ u.fab.fenced = true ∧ u.fab.token = token ∧
        u.fab.fwd = [] ∧ u.fab.inject = [] ∧
        (∀ p : Port, u.fab.port[p].inq = [] ∧
          (if s.fab.port[p].state = .identify ∨ s.fab.port[p].state = .quarantine ∨ s.fab.port[p].state = .up then
            u.fab.port[p].state = .fenced ∧ u.fab.port[p].reason = 12
          else u.fab.port[p].state = s.fab.port[p].state)) ∧
        (if s.clk.state = .ready ∨ s.clk.state = .joined ∨ s.clk.state = .active then
          u.clk.state = .fenced ∧ u.clk.prev = s.clk.state
        else u.clk.state = s.clk.state) ∧
        (∀ n : Core, (u.core n).arch.scratch = (s.core n).arch.scratch ∧ (u.core n).reg = (s.core n).reg) ∧
        u.stack = s.stack) ∧
    (s.fab.fenced = false ∨ token ≠ s.fab.token ∨ s.clk.state = .fault → exec (.fabFenceClear token) s = .next kept) ∧
    (s.fab.fenced = true → token = s.fab.token → s.clk.state ≠ .fault → s.clk.prev ≠ .ready → s.clk.state ≠ .ready →
      ∃ u, exec (.fabFenceClear token) s = Host.Outcome.next u ∧ u.fab.fenced = false ∧
        (∀ p : Port, u.fab.port[p].state = if s.fab.port[p].state = .fenced then .identify else s.fab.port[p].state) ∧
        u.clk.state = (if s.clk.state = .fenced then s.clk.prev else s.clk.state) ∧ u.cores = s.cores ∧ u.stack = s.stack)

/-- An entry of the fence table is set by a write or by a notice, and cleared only under its token; a notice that finds no
free entry is counted, and one for a coordinate already in the table changes nothing. A notice to another part is sent. -/
def Sys2Proof.FenceTableActs : Prop :=
  ∀ (p : Port) (i : Fin 16) (v : Word) (k : Packet) (q : Port) (s : State),
    let coord : Coord := BitVec.ofNat 16 (bitsOf v 15 0)
    let entry : FenceEntry := { token := BitVec.ofNat 24 (bitsOf v 55 32), valid := v.getLsbD 16, coord := coord }
    let old := s.fab.ftbl[i]
    let w : Word := BitVec.ofNat 64 (natAt k.payload 0 8)
    let said : FenceEntry := { token := BitVec.ofNat 24 (bitsOf w 63 40), valid := true, coord := BitVec.ofNat 16 (bitsOf w 15 0) }
    let s' := s.freePlace p (inChannel k)
    let holds := fun (u : State) (j : Fin 16) (e : FenceEntry) => u.fab.ftbl[j] = e ∧
      (∀ l : Fin 16, l ≠ j → u.fab.ftbl[l] = s.fab.ftbl[l]) ∧ u.stack = s.stack
    (v.getLsbD 16 = true → s.coll.active = [] → s.inRound = false → 
      ∃ u, exec (.fabFtblWrite i v) s = Host.Outcome.next u ∧ holds u i entry ∧ u.fencedCoord coord = true ∧
        (∀ x ∈ u.fab.fwd, x.2.2.2.src ≠ coord ∧ x.2.2.2.dst ≠ coord) ∧ ∀ x ∈ u.fab.inject, x.2.2.src ≠ coord ∧ x.2.2.dst ≠ coord) ∧
    (v.getLsbD 16 = false → old.valid = true → old.token ≠ entry.token → exec (.fabFtblWrite i v) s = .next s) ∧
    (v.getLsbD 16 = false → (old.valid = true → old.token = entry.token) →
      ∃ u, exec (.fabFtblWrite i v) s = Host.Outcome.next u ∧ holds u i entry) ∧
    (Arrives s p k 8 → w.getLsbD 16 = true → 
      (s.fencedCoord said.coord = true → exec (.noticeReceive p k) s = .next s') ∧
      (s.fencedCoord said.coord = false → (∀ j : Fin 16, s.fab.ftbl[j].valid = true) →
        exec (.noticeReceive p k) s = .next { s' with fab := { s'.fab with ftblFull := satAdd s.fab.ftblFull 1 } }) ∧
      (s.fencedCoord said.coord = false → s.coll.active = [] → s.inRound = false → s.fab.ftbl[i].valid = false →
        (∀ j : Fin 16, j < i → s.fab.ftbl[j].valid = true) →
        ∃ u, exec (.noticeReceive p k) s = Host.Outcome.next u ∧ holds u i said)) ∧
    (s.fastOn = true → s.fab.fenced = false → BitVec.ofNat 16 (bitsOf v 23 8) ≠ s.coord →
      MaySend s (BitVec.ofNat 16 (bitsOf v 23 8)) q →
      exec (.fabNoticeWrite v) s = .next { s with fab := { s.fab with inject := s.fab.inject ++
        [Injected s q (s.packet (BitVec.ofNat 16 (bitsOf v 23 8)) 2 8 0x21 0 0 7
          (leBytes 8 (bitsOf v 39 24 + (if v.getLsbD 0 then 2 ^ 16 else 0) + bitsOf v 63 40 * 2 ^ 40)))] } })

/-- Fences of the part and of its fence table.
The model's choices it rests on are log entries 74, 75. -/
def Obligations.FabricFences : Prop := FencesNeedTheirToken ∧ FenceTableActs

/-! ### Packets from and to links (R162 to R164, R229, R297 to R307, R310) -/

/-- No packet waits in an input place. -/
def Sys2Proof.InputsEmpty (s : State) : Prop := ∀ q : Port, s.fab.port[q].inq = []

/-- A packet that fails a check of R301 is counted and discarded, whatever it was; its place at the port's input is free, and
the code words of its link that could not be corrected are counted (R287, R306).
The model's choices it rests on are log entries 12, 75. -/
def Obligations.DiscardedPacketsAreCounted : Prop :=
  ∀ (p : Port) (k : Packet) (d : Discard) (s : State), s.portOpen p = true → s.discard p k = some d →
    ∀ i ∈ [Instr.inboundReadReceive p k, .inboundWriteReceive p k, .readRspReceive p k, .writeAckReceive p k,
      .noticeReceive p k, .transitPacketReceive p k, .chunkReceive p k, .creditReceive p k, .rereqReceive p k,
      .ctrlArriveReceive p k, .ctrlVoteReceive p k, .ctrlAbortReceive p k, .stepVoteReceive p k, .stepSealReceive p k,
      .stepResendReceive p k, .stepDigestReceive p k],
      let fab := (s.freePlace p (inChannel k)).fab
      ∃ u, exec i s = Host.Outcome.next u ∧
        u = { s with fab := u.fab, awl := { s.awl with health := u.awl.health, healthNew := u.awl.healthNew } } ∧
        match d with
        | .crc => OnlyPort p { s with awl := u.awl } u ∧ u.fab.port[p] = { fab.port[p] with
            crc := satAdd s.fab.port[p].crc 1, fecUe := satAdd s.fab.port[p].fecUe k.ue }
        | .bad => u.fab = { fab with discBad := satAdd s.fab.discBad 1 }
        | .fenced => u.fab = { fab with discFenced := satAdd s.fab.discFenced 1 }
        | .route => u.fab = { fab with discRoute := satAdd s.fab.discRoute 1 }

/-- A READ or a WRITE for this part that finds its block is accepted and leaves its place at the port's input, a WRITE's bytes
being in memory at once where no epoch range is in effect; one whose unit is in reset is kept to be refused. The reply to the oldest READ carries its bytes
under its ctx, and the request is gone; its block, from the shared pool or not, is the reply's until that has left.
The model's choices it rests on are log entries 73, 126. -/
def Obligations.InboundRequestsAreServed : Prop :=
  ∀ (p q : Port) (k : Packet) (s : State), InputsEmpty s →
    let asks : BlockWait := { user := .input p (inChannel k), owner := inboundOwner }
    let fab := (s.freePlace p (inChannel k)).fab
    let accepted := fun (u : State) (st : Status) (pool : Bool) => u.fab = { fab with
        inbound := s.fab.inbound ++ [(k, st, s.unitEpoch k.arg.toNat)]
        pooled := if pool then s.fab.pooled ++ [k] else s.fab.pooled } ∧
      (∀ n : Core, (u.core n).arch.s = (s.core n).arch.s ∧ (u.core n).reg = (s.core n).reg)
    (Arrives s p k 0 → ∀ pool, (s.welt.claim .rsp asks).2 = some pool →
      ∃ u, exec (.inboundReadReceive p k) s = Host.Outcome.next u ∧
        u.welt = ({ s with welt := (s.welt.claim .rsp asks).1 }).noteInputs.welt ∧
        accepted u (if s.serves k.arg.toNat then .ok else .refusedReset) pool ∧ ∀ l : Loc, u.byteAt l = s.byteAt l) ∧
    (Arrives s p k 1 → ∀ pool, (s.welt.claim .req asks).2 = some pool → s.serves k.arg.toNat = true → MemoriesWf s →
      (∀ a, s.ins.isEpoch a = false) → (∀ c ∈ writeCellsOf k, ∀ l, s.locate false c.1 = some l → s.poisoned l.word = false) →
      ∃ u, exec (.inboundWriteReceive p k) s = Host.Outcome.next u ∧ accepted u .ok pool ∧
        ∀ l : Loc, u.byteAt l = (cellFor s (writeCellsOf k) l).getD (s.byteAt l)) ∧
    (∀ rest, s.fastOn = true → s.fab.inbound = (k, .ok, s.unitEpoch k.arg.toNat) :: rest → k.kind = 0 →
      s.serves k.arg.toNat = true → s.anyPoison false k.arg.toNat (k.len.toNat + 1) = false → MaySend s k.src q →
      let r := s.packet k.src 1 2 (bitsOf k.ctx 14 11 + 1) 0 k.ctx k.len.toNat (s.bytes false k.arg.toNat (k.len.toNat + 1))
      let out := Injected s q { r with uepoch := s.unitEpoch k.arg.toNat, echo := k.mark }
      exec (.inboundReplySend .clean) s = .next { s with fab := { s.fab with
        inbound := rest, inject := s.fab.inject ++ [out]
        pooled := if s.fab.pooled.contains k then s.fab.pooled.erase k ++ [out.2.2] else s.fab.pooled } })

/-- A reply to a remote request that is outstanding: a READ_RSP's bytes, or its failure, are kept in stream order and its
tag is free, its block too where it is abandoned; a WRITE_ACK is one packet fewer to wait for, and the last frees the tag and the block. A reply with another
use count changes nothing but that it leaves its place at the port's input.
The model's choice it rests on is log entry 43. -/
def Obligations.RemoteRepliesLand : Prop :=
  ∀ (p : Port) (k : Packet) (t : Fin 16) (r : Req) (s : State),
    let n := (replyFor k).1
    let tag := (replyFor k).2.1
    let c := s.core n
    let x := c.arch.stOf t
    let st := replyStatus k
    let s' := s.freePlace p (inChannel k)
    (c.tags.find? fun y => y.1 == tag) = some (tag, t.val, r.first) → (x.reqs.find? fun y => y.first == r.first) = some r →
    x.remote = true →
    (vgetD c.tagUse tag 0 ≠ (replyFor k).2.2 →
      (Arrives s p k 2 → exec (.readRspReceive p k) s = .next s') ∧ (Arrives s p k 3 → exec (.writeAckReceive p k) s = .next s')) ∧
    (vgetD c.tagUse tag 0 = (replyFor k).2.2 →
      let only := fun (u : State) => (∀ m, m ≠ n → u.core m = s.core m) ∧
        (∀ j : Fin 16, j ≠ t → (u.core n).arch.stOf j = c.arch.stOf j) ∧ u.fab = s'.fab ∧ u.stack = s.stack
      (Arrives s p k 2 → x.writes = false →
        ∃ u, exec (.readRspReceive p k) s = Host.Outcome.next u ∧ only u ∧
          u.welt = (if x.gives st = true then (s.giveReq n x r).welt else s.welt) ∧
          (u.core n).tags = c.tags.filter (fun y => y.1 != tag) ∧
          (u.core n).arch.stOf t = { x with reqs := x.reqs.map fun y => if y.first == r.first then
            { y with done := true, status := st, data := if st = .ok then rspData x r k.payload else []
                     blk := if x.gives st then none else y.blk } else y }) ∧
      (Arrives s p k 3 → x.writes = true → r.need = 1 → st = .ok → r.status = .ok → x.reqs = [r] →
        ∃ u, exec (.writeAckReceive p k) s = Host.Outcome.next u ∧ only u ∧ u.welt = (s.giveReq n x r).welt ∧
          (u.core n).tags = c.tags.filter (fun y => y.1 != tag) ∧ (u.core n).arch.stOf t = { x with reqs := [] }) ∧
      (Arrives s p k 3 → x.writes = true → 1 < r.need → r.status = .ok → x.reqs = [r] →
        ∃ u, exec (.writeAckReceive p k) s = Host.Outcome.next u ∧ only u ∧ u.welt = s.welt ∧ (u.core n).tags = c.tags ∧
          (u.core n).arch.stOf t = { x with reqs := [{ r with need := r.need - 1, status := st }] }))

/-- A packet for another part that comes in with its inputs clear goes to a block of the channel it leaves on, and its place at
the input is free. An output port sends the packet whose turn it is under a credit with its CRC, marked where enough packets
wait; its block goes back, and the turn passes from its channel and source.
The model's choices it rests on are log entries 3, 76. -/
def Obligations.PacketsPassThrough : Prop :=
  ∀ (p q : Port) (k : Packet) (s : State), InputsEmpty s →
    (s.portOpen p = true → s.discard p k = none → k.dst ≠ s.coord → s.route k.dst = some q → s.fab.port[q].state = .up →
      let dl := s.crosses q || (k.dl && q.val / 2 == p.val / 2)
      let v := channel k.cls.toNat dl
      let asks : BlockWait := { user := .input p (inChannel k), owner := v }
      (s.welt.claim .fwd asks).2.isSome = true →
      exec (.transitPacketReceive p k) s = .next { s with
        welt := ({ s with welt := (s.welt.claim .fwd asks).1 }).noteInputs.welt
        fab := { (s.freePlace p (inChannel k)).fab with fwd := s.fab.fwd ++ [(p.val, q.val, v, { k with dl := dl })] } }) ∧
    (∀ vc : Fin 8, s.portOpen p = true → s.fab.port[p].credit[vc] > 0 → s.fab.injectStop = false → s.fab.fenced = false →
      let x := s.fab.port[p]
      let mark := k.mark || decide (max 1 s.fab.thresh.toNat ≤ s.waitingFor p)
      let sent := fun (u : State) (src : Nat) => u.fab.port[p] = { x with
        tx := some { k with mark := mark, crc := packetSum { k with mark := mark } }, lastVc := vc.val
        credit := vputD x.credit vc.val (vgetD x.credit vc.val 0 - 1), granted := vputD x.granted vc.val src }
      (s.fab.fwd = [] → s.fab.inject = [(p.val, vc.val, k)] → k.kind.toNat ≠ 2 → k.kind.toNat ≠ 3 →
        ∃ u, exec (.packetTransmit p .clean) s = Host.Outcome.next u ∧ u.fab.inject = [] ∧ u.fab.fwd = [] ∧
          u.welt = s.noteInputs.welt ∧ u.cores = s.cores ∧ sent u 8) ∧
      (∀ src < 8, s.fab.inject = [] → s.fab.fwd = [(src, p.val, vc.val, k)] →
        ∃ u, exec (.packetTransmit p .clean) s = Host.Outcome.next u ∧ u.fab.inject = [] ∧ u.fab.fwd = [] ∧
          u.welt = ({ s with welt := s.welt.give .fwd vc.val false }).noteInputs.welt ∧ u.cores = s.cores ∧ sent u src))

/-! ### The Welt (R227, R233 to R237, R240) -/

/-- An apply of the Welt is BUSY while a core runs or a staging block is held; otherwise it gives the code of the first
failing check, and where none fails it puts the configuration in effect: the program area keeps what lies below both
boundaries and reads as zero above. The counts clear, every peak falls to its present use, and the waiting request whose turn
it is, by the round robin of the ports and the order of arrival, is granted a block from where there is one for its owner. -/
def Sys2Proof.WeltCommandsAct : Prop :=
  ∀ (c : WeltClass) (s : State),
    let w := s.welt
    let quiet := s.anyBusy = false ∧ ∀ i : Fin 7, w.use[i].used = 0
    (¬ quiet → exec .wltApply s = .next { s with welt := { w with lastStatus := .busy } }) ∧
    (quiet → s.wltCheck ≠ 0 →
      exec .wltApply s = .next { s with welt := { w with lastStatus := .ok, cfgErr := BitVec.ofNat 4 s.wltCheck } }) ∧
    (quiet → s.wltCheck = 0 → ∃ u, exec .wltApply s = Host.Outcome.next u ∧ u = { s with welt := u.welt } ∧
      u.welt = { w with lastStatus := .ok, cfgErr := 0, areaOn := w.area, resOn := w.res, fwdvcOn := w.fwdvc
                        mem := u.welt.mem, poison := u.welt.poison } ∧
      ∀ o, u.welt.mem.read o = if o < min w.area.toNat w.areaOn.toNat * 2 ^ 18 then w.mem.read o else 0) ∧
    exec .wltClrCnt s = .next { s with welt := { w with ue := 0, ce := 0 } } ∧
    (∃ u, exec .wltClrPeak s = Host.Outcome.next u ∧ u = { s with welt := { w with use := u.welt.use } } ∧
      ∀ i : Fin 7, u.welt.use[i] = { w.use[i] with peak := w.use[i].used }) ∧
    (let i := classIdx c
     s.fastOn = true →
      (w.nextWait c = none → exec (.weltBlockGrant c) s = .next s) ∧
      ∀ (q : BlockWait) (pool : Bool), w.nextWait c = some q → q.isInput = false → w.source c q.owner = some pool →
        ∃ u, exec (.weltBlockGrant c) s = Host.Outcome.next u ∧ u = { s with welt := u.welt } ∧
          u.welt = { w with use := u.welt.use, wait := vput w.wait i (w.wait[i].erase q)
                            granted := vput w.granted i (w.granted[i] ++ [(q, pool)])
                            lastPort := vput w.lastPort i q.user.port } ∧
          (∀ j : Fin 7, j ≠ i → u.welt.use[j] = w.use[j]) ∧ u.welt.use[i].used = w.use[i].used + 1 ∧
          u.welt.use[i].shared = w.use[i].shared + (if pool then 1 else 0) ∧
          u.welt.use[i].peak = max w.use[i].peak (w.use[i].used + 1))

/-- The patrol scrub of the Welt and of a stack counts what the code corrects, and poisons, records and raises the interrupt
of what it does not, in either word of a beat; a clean beat or line changes nothing but how far the Welt's sweep has come, in
which each bank reads its beats in turn. -/
def Sys2Proof.PatrolScrubsAct : Prop :=
  ∀ (bank : BitVec 11) (k : StackId) (line : BitVec 30) (s : State), s.fastOn = true →
    let done := SMap.get 0 s.welt.beats bank.toNat
    let after := s.welt.scrubbed bank.toNat
    let bad := fun (i : Instr) (word : Nat) => ∃ u, exec i s = Host.Outcome.next u ∧
      u.welt = { after with ue := satAdd s.welt.ue 1, eccValid := true, eccWord := BitVec.ofNat 25 word
                            poison := NatSet.add s.welt.poison word } ∧ u.ctx.pend.getLsbD 23 = true
    (s.welt.scrubEn = true →
      exec (.weltScrubBeat bank (.clean, .clean)) s = .next { s with welt := after } ∧
      ((∃ j, j ≠ bank.toNat ∧ SMap.get 0 s.welt.beats j ≠ 0 ∧ SMap.get 0 s.welt.beats j < 8192) ∨ s.welt.beats.length < 2047 →
        SMap.wf 0 s.welt.beats = true →
        after = { s.welt with beats := after.beats } ∧
        ∀ j, SMap.get 0 after.beats j = SMap.get 0 s.welt.beats j + if j = bank.toNat then 1 else 0) ∧
      (∀ x ∈ [(Ecc.corrected, Ecc.clean), (.clean, .corrected)], ∃ u, exec (.weltScrubBeat bank x) s = Host.Outcome.next u ∧
        u.welt = { after with ce := satAdd s.welt.ce 1 } ∧ u.ctx = s.ctx) ∧
      bad (.weltScrubBeat bank (.uncorrectable, .clean)) (beatWord bank.toNat done) ∧
      bad (.weltScrubBeat bank (.clean, .uncorrectable)) (beatWord bank.toNat done + 1)) ∧
    ((s.stack[k]).state = .ready → (s.stack[k]).scrubEn = true →
      exec (.insScrubLine k line .clean) s = .next s ∧
      (∃ u, exec (.insScrubLine k line .corrected) s = Host.Outcome.next u ∧
        u.stack = vput s.stack k { s.stack[k] with ce := satAdd (s.stack[k]).ce 1 } ∧ u.ctx = s.ctx) ∧
      ∃ u, exec (.insScrubLine k line .uncorrectable) s = Host.Outcome.next u ∧
        u.stack = vput s.stack k { s.stack[k] with
          ue := satAdd (s.stack[k]).ue 1, eccLine := line, eccValid := true, poison := NatSet.add (s.stack[k]).poison line.toNat } ∧
        u.ctx.pend.getLsbD 22 = true)

/-- The commands of the Welt and the patrol scrubs.
The model's choices it rests on are log entries 12, 77, 78, 126. -/
def Obligations.WeltAndScrubs : Prop := WeltCommandsAct ∧ PatrolScrubsAct

/-! ### The Insole stacks (R252, R261, R263, R277, R285, R496, R520) -/

/-- An apply of the map is BUSY while work runs or is outstanding, gives the code of the first failing check, and puts map
and ranges in effect with no granule in its twin, written or unsettled. A stack's copies of key and epoch change only
while no core runs and no command is queued there. -/
def Sys2Proof.InsoleMapActs : Prop :=
  ∀ (k : StackId) (v : Word) (e : BitVec 32) (s : State),
    let err := s.ins.take.check
    (s.mapQuiet = false → exec .insApply s = .next { s with stack := vput s.stack 0 { s.stack[(0 : Fin 24)] with lastStatus := .busy } }) ∧
    (s.mapQuiet = true → err ≠ 0 → exec .insApply s = .next { s with
      stack := vput s.stack 0 { s.stack[(0 : Fin 24)] with lastStatus := .ok }, ins := { s.ins with cfgErr := BitVec.ofNat 4 err } }) ∧
    (s.mapQuiet = true → err = 0 → ∃ u, exec .insApply s = Host.Outcome.next u ∧
      u.ins = { s.ins with cfgErr := 0, sigmaOn := s.ins.sigma, lambdaOn := s.ins.lambda, eprOn := s.ins.epr } ∧
      (∀ j : StackId, tableOf u.stack[j] = EpochTable.fresh ∧ (u.stack[j]).decisions = [] ∧ (u.stack[j]).late = [] ∧
        (u.stack[j]).srepoch = (s.stack[j]).srepoch) ∧
      ((∀ j : StackId, (s.stack[j]).decisions = []) → u.cores = s.cores ∧ u.welt = s.welt ∧
        ∀ j : StackId, (tableOf s.stack[j]).twin = [] → (u.stack[j]).dram = (s.stack[j]).dram)) ∧
    (if s.anyBusy = false ∧ (s.stack[k]).queue = [] then
      exec (.insSrkeyWrite k v) s = .next { s with stack := vput s.stack k { s.stack[k] with srkey := v } } ∧
        exec (.insSrepochWrite k e) s = .next { s with stack := vput s.stack k { s.stack[k] with srepoch := e } }
    else exec (.insSrkeyWrite k v) s = .next s ∧ exec (.insSrepochWrite k e) s = .next s)

/-- A stack that is READY begins its reset by refusing, one cleared while the part is ACTIVE is refused with BUSY, and a
stack that comes back serves again, with its epoch table from the maintenance area, or zero where it was cleared. Counts clear; a row moves to a spare row; refreshes and
recalibrations change nothing that the part shows; the throttle level follows the temperature, and entry to level 3
raises the stacks' interrupt. -/
def Sys2Proof.StackCommandsAct : Prop :=
  ∀ (k : StackId) (clear : Bool) (t : BitVec 8) (ch : Fin 16) (s : State),
    let x := s.stack[k]
    let with_ := fun (y : Stack) => { s with stack := vput s.stack k y }
    (if x.state ≠ .ready then exec (.insReset k clear) s = .next s
    else if clear = true ∧ s.isActive = true then exec (.insReset k clear) s = .next (with_ { x with lastStatus := .busy })
    else exec (.insReset k clear) s = .next (with_ { x with lastStatus := .ok, state := .quiescing, clearing := clear })) ∧
    (s.fastOn = true → x.state = .resetting ∨ x.state = .training →
      exec (.stackResetReturn k) s = .next (with_ (if x.clearing then
        { x with state := .ready, clearing := false, dram := [], poison := [], table := .fresh, maint := .fresh
                 decisions := [], late := [] }
      else { x with state := .ready, clearing := false, table := x.maint, maint := .fresh }))) ∧
    exec (.insClrCnt k) s = .next (with_ { x with ue := 0, ce := 0 }) ∧
    (s.fastOn = true → exec (.rowSpare k true) s = .next (with_ { x with spareRows := satAdd x.spareRows 1 })) ∧
    exec (.rowSpare k false) s = .next s ∧ exec (.stackRefresh k) s = .next s ∧ exec (.stackChannelRecal k ch) s = .next s ∧
    (x.throttle.toNat ≤ 3 → ∃ u, exec (.stackThrottleChange k t) s = Host.Outcome.next u ∧
      u.stack = vput s.stack k { x with temp := t, throttle := (u.stack[k]).throttle } ∧
      (100 ≤ t.toNat → (u.stack[k]).throttle = 3) ∧ (t.toNat < 83 → (u.stack[k]).throttle = 0) ∧
      (levelOf t.toNat ≤ (u.stack[k]).throttle.toNat) ∧
      ((u.stack[k]).throttle = 3 → x.throttle ≠ 3 → u.ctx.pend.getLsbD 22 = true))

/-- The map, the keys and the commands of the stacks.
The model's choices it rests on are log entries 79, 80, 81, 82, 83. -/
def Obligations.InsoleCommands : Prop := InsoleMapActs ∧ StackCommandsAct

/-! ### Launch, stop and communicators (R65 to R71, R180, R332, R351) -/

/-- A launch of a core that is not RUNNING or WAITING and in service, at level 1, while the part is not in FAULT sets the
state of R66, with scratch kept, and the core runs at its entry once its line has come; another level answers
VERSION_MISMATCH, and a busy core BUSY. -/
def Obligations.CoresLaunch : Prop :=
  ∀ (n : Core) (level : BitVec 8) (voter : Bool) (s : State),
    let c := s.core n
    let r := { c.reg with level := level, voter := voter }
    let answers := fun (st : Status) => ∃ u, exec (.coreLaunchStart n level voter) s = Host.Outcome.next u ∧ OnlyCore n s u ∧
      u.core n = { c with reg := { r with lastStatus := st } }
    if c.busy = true ∨ c.phase ≠ .service ∨ s.clk.state = .fault then answers .busy
    else if level ≠ 1 then answers .versionMismatch
    else ∃ u, exec (.coreLaunchStart n level voter) s = Host.Outcome.next u ∧ (∀ m, m ≠ n → u.core m = s.core m) ∧
      (u.core n).reg.run = .running ∧
      (u.core n).arch.pc = c.reg.entry.zeroExtend 64 <<< 3 ∧
      (∀ i < 64, (u.core n).arch.sreg i = if i = 1 then c.reg.arg else if i = 2 then BitVec.ofNat 64 n.val
        else if i = 3 then fields [(0, s.fab.t.toNat), (8, s.fab.c.toNat), (16, s.fab.p.toNat), (24, s.fab.d.toNat)] else 0) ∧
      (∀ i < 8, (u.core n).arch.pred i = decide (i = 0)) ∧ (u.core n).arch.v = [] ∧ (u.core n).arch.m = Vector.replicate 8 0 ∧
      (∀ i < 64, (u.core n).arch.semOf i = { count := 0, status := .ok }) ∧
      (∀ i < 16, ((u.core n).arch.ringOf i).base.toNat = 16 * i ∧ ((u.core n).arch.ringOf i).nslots = 16 ∧
        ((u.core n).arch.ringOf i).slots = List.replicate 16 Slot.reset) ∧
      (∀ b ∈ (u.core n).arch.bank.toList, b.loaded = false) ∧ (∀ a, (u.core n).arch.heel.read a = 0) ∧
      (u.core n).arch.scratch = c.arch.scratch ∧ (u.core n).allIdle = true ∧ (u.core n).region = none ∧
      (u.core n).isVoter = voter ∧ (u.core n).flags = 0 ∧
      (u.core n).hold = .line (((c.reg.entry.zeroExtend 64 <<< 3 : Word) >>> 6).truncate 58)

/-- A stop of a core that waits at STEP.COMMIT ends it at once with ABORTED in its sd; of one that runs with empty queues
it stops issue, and the core enters STOPPED once its queues are empty; of any other core it answers ALREADY_DONE. A core's
key and epoch change only while it is neither RUNNING nor WAITING.
The model's choice it rests on is log entry 22. -/
def Obligations.CoresStop : Prop :=
  ∀ (n : Core) (v : Word) (e : BitVec 32) (s : State), s.step.flagSent = true → s.step.flagDone = false → s.coll.comms = [] →
    let c := s.core n
    let only := fun (i : Instr) (d : CoreSt) => ∃ u, exec i s = Host.Outcome.next u ∧ OnlyCore n s u ∧ u.core n = d
    (c.busy = false →
      only (.coreLaunchStop n) { c with reg := { c.reg with lastStatus := .alreadyDone } } ∧
      only (.coreSrkeyWrite n v) { c with reg := { c.reg with srkey := v } } ∧
      only (.coreSrepochWrite n e) { c with reg := { c.reg with srepoch := e } }) ∧
    (c.busy = true → exec (.coreSrkeyWrite n v) s = .next s ∧ exec (.coreSrepochWrite n e) s = .next s) ∧
    (∀ sd, c.busy = true → c.hold = .commitWait sd → ∃ u, exec (.coreLaunchStop n) s = Host.Outcome.next u ∧
      (u.core n).reg.run = .stopped ∧ (u.core n).reg.lastStatus = .aborted ∧ (u.core n).hold = .none ∧
      (∀ i < 64, (u.core n).arch.sreg i = if i = sd.toNat ∧ sd.toNat ≠ 0 then 0x11 else c.arch.sreg i) ∧
      u.ctx.pend.getLsbD n.val = true ∧ (∀ m, m ≠ n → u.core m = s.core m)) ∧
    (c.busy = true → (∀ sd, c.hold ≠ .commitWait sd) → c.allIdle = true → (∀ a ∈ s.coll.active, a.core ≠ n) →
      only (.coreLaunchStop n) { c with hold := .none, stopping := true }) ∧
    (c.stopping = true → c.allIdle = true → ∃ u, exec (.coreStopQuiesced n) s = Host.Outcome.next u ∧
      (u.core n).reg.run = .stopped ∧ (u.core n).reg.lastStatus = .aborted ∧ (u.core n).stopping = false ∧
      (bitOf (u.core n).reg.health 5 = true ∨ c.region = none) ∧ (u.core n).arch = c.arch ∧ u.ctx.pend.getLsbD n.val = true ∧
      (∀ m, m ≠ n → u.core m = s.core m))

/-- An apply of a communicator is BUSY while its bound core runs or a collective of it is queued or active; it removes one
that is not valid, gives the code of the first failing check, and otherwise configures it with the values written, nothing
held or owed and its bound core's sequence counter 0.
The model's choice it rests on is log entry 84. -/
def Obligations.CommunicatorsApply : Prop :=
  ∀ (c : Comm) (s : State),
    let x := s.comm c
    let err := s.commCheck c x.comm x.slots.toNat
    let fresh := fun (on : Option (Word × BitVec 16)) (u : State) => 
      u.comm c = { x with on := on, heldChunks := [], heldCtrl := [], flows := [], debts := [], ended := [] } ∧
      u.coll.lastStatus = .ok ∧ u.coll.cdef = c ∧ u.stack = s.stack ∧ u.fab = s.fab
    (s.commQuiet c = false → exec (.cleApply c) s = .next { s with coll := { s.coll with cdef := c, lastStatus := .busy } }) ∧
    (s.commQuiet c = true → bitOf x.comm 40 = false → SMap.wf CommSt.reset s.coll.comms = true →
      ∃ u, exec (.cleApply c) s = Host.Outcome.next u ∧ fresh none u ∧ u.commOn c = none ∧ u.cores = s.cores) ∧
    (s.commQuiet c = true → bitOf x.comm 40 = true → err ≠ 0 → exec (.cleApply c) s =
      .next { s with coll := { s.coll with cdef := c, lastStatus := .ok, cfgErr := BitVec.ofNat 4 err } }) ∧
    (s.commQuiet c = true → bitOf x.comm 40 = true → err = 0 → SMap.wf CommSt.reset s.coll.comms = true → SMap.wf 0 (s.core (commCore x.comm)).seq = true →
      ∃ u, exec (.cleApply c) s = Host.Outcome.next u ∧ fresh (some (x.comm, x.slots)) u ∧
        u.commOn c = some (x.comm, x.slots) ∧ (∀ m, m ≠ commCore x.comm → u.core m = s.core m) ∧
        SMap.get 0 (u.core (commCore x.comm)).seq c.toNat = 0) ∧
    exec .cleClrCnt s = .next { s with coll := { s.coll with rereq := 0, timeouts := 0, seqMm := 0, dropped := 0 } }

/-! ### The Clicker (R383 to R409, R415) -/

/-- The configuration that go takes: the registers, the profile, the records per sample from the table's entry at the
position word, and the record size (R392, R407). -/
def Sys2Proof.takenLoader (s : State) : Clicker :=
  let c := s.ing
  let raw := s.bytes false (c.prof.toNat * 64) 128
  let start := natAt (s.bytes false (c.pos.toNat * 64) 8) 0 8
  { c with
    lastStatus := .ok, gBatch := c.batch, gComm := c.comm, gNbatch := c.nbatch, gSem := c.sem, gEntries := c.entries
    gSeed := c.seed, gTbl := c.tbl, gPool := c.pool, gConn := c.conn, gPos := c.pos, gProf := raw
    gRps := (profileOf raw).recsFor (natAt (s.bytes false (c.tbl.toNat * 64 + 64 * (start % max 1 c.entries.toNat)) 64) 22 2)
    gZ := (profileOf raw).recSize }

/-- go is BUSY unless the loader is idle or stopped; a configuration that fails a check gives its code and nothing else; one
that passes is taken, and an idle loader fills the batch of the current epoch from the position word. stop ends filling, at
the next sample boundary where a sample is being read, and keeps the READY batches; resume ends a stall and reads the
segment again; clr_cnt clears the counters.
The model's choices it rests on are log entries 85, 87, 92. -/
def Obligations.LoaderCommands : Prop :=
  ∀ (s : State), 
    let c := s.ing
    let g := takenLoader s
    let e := ({ s with ing := g }).goErr
    let kept := fun (u : State) => u.ing.slots = c.slots.map fun b => if b = .filling then BatchState.free else b
    (s.fastOn = true → c.state ≠ .idle → c.state ≠ .stopped → exec .ingGo s = .next { s with ing := { c with lastStatus := .busy } }) ∧
    (s.fastOn = true → c.state = .idle ∨ c.state = .stopped → e ≠ 0 →
      exec .ingGo s = .next { s with ing := { c with lastStatus := .ok, cfgErr := BitVec.ofNat 4 e } }) ∧
    (s.fastOn = true → c.state = .idle → e = 0 →
      exec .ingGo s = .next { s with ing := { g with
        cfgErr := 0, start := BitVec.ofNat 64 (natAt (s.bytes false (c.pos.toNat * 64) 8) 0 8), startEpoch := s.epoch, audio := 0
        conns := [], doneSegs := [], segBytes := 0, segData := [], readSegs := 0, decode := [], stopping := false, posNo := 0
        state := .filling
        fillEpoch := s.epoch
        slots := (List.range c.nbatch.toNat).map fun i =>
          if i = s.epoch.toNat % c.nbatch.toNat then BatchState.filling else .free } }) ∧
    (c.state = .filling → c.segBytes = 0 → c.held = 0 →
      ∃ u, exec .ingStop s = Host.Outcome.next u ∧ u.ing.state = .stopped ∧ kept u ∧ u.cores = s.cores ∧ u.stack = s.stack) ∧
    (c.state = .filling → ¬ (c.segBytes = 0 ∧ c.held = 0) →
      exec .ingStop s = .next { s with ing := { c with stopping := true } }) ∧
    (c.state = .full ∨ c.state = .stalled →
      ∃ u, exec .ingStop s = Host.Outcome.next u ∧ u.ing.state = .stopped ∧ kept u ∧ u.cores = s.cores ∧ u.stack = s.stack) ∧
    (c.state = .stalled → ∃ u, exec .ingResume s = Host.Outcome.next u ∧ u.ing.state = .filling ∧ u.ing.segBytes = 0 ∧
      u.ing.conns = [] ∧ u.ing.doneSegs = c.doneSegs ∧ u.ing.slots = c.slots ∧ u.cores = s.cores ∧ u.stack = s.stack) ∧
    (c.state ≠ .stalled → exec .ingResume s = .next s) ∧
    exec .ingClrCnt s = .next { s with ing := { c with
      tsErr := 0, port := c.port.map fun p => { p with fecCorr := 0, rxDrop := 0, pfcTx := 0 } } }

/-- Ethernet ports: a link comes up on a port in service that is not disabled, a control port then sending its LLDPDU, and a
link that goes down ends its pauses; an RDMA request gets a NAK; a priority that is paused sends neither; PFC frames pause and
release the priorities they name; a frame that nothing takes is counted; disable holds the link down; a reset refuses. A port of the other kind sends and takes nothing of these.
The model's choices it rests on are log entries 90, 91, 92. -/
def Obligations.EthernetPorts : Prop :=
  ∀ (p : Port) (prios : BitVec 8) (time : Nat) (frame : List Byte) (s : State),
    let x := s.ing.port[p]
    let with_ := fun (y : EthPort) => { s with ing := { s.ing with port := vput s.ing.port p y } }
    let down := fun (i : Instr) (y : EthPort) => ∃ u, exec i s = Host.Outcome.next u ∧
      u = { s with ing := u.ing, awl := u.awl } ∧ u.ing = (with_ y).ing
    let named := fun (t : State) => { t with freeCtr := s.freeCtr + 1 }
    let clear := fun (prio : Nat) => bitOf x.paused prio = false
    (s.fastOn = true → x.up = false → x.disable = false → x.phase = .service → exec (.ethernetLinkChange p true) s =
      .next (named (with_ { x with up := true, tx := if 4 ≤ p.val then s.lldp p s.freeCtr else x.tx }).flowControl)) ∧
    (x.up = true → down (.ethernetLinkChange p false) { x with up := false, paused := 0, xoff := 0 } ∧
      down (.ingPortDisable p true) { x with disable := true, up := false, paused := 0, xoff := 0 }) ∧
    (x.up = false → exec (.ethernetLinkChange p false) s = .next s ∧
      exec (.ingPortDisable p true) s = .next (with_ { x with disable := true })) ∧
    exec (.ingPortDisable p false) s = .next (with_ { x with disable := false }) ∧
    (s.fastOn = true → x.up = true →
      (if 4 ≤ p.val ∧ clear 0 then exec (.lldpSend p) s = .next (named (with_ { x with tx := s.lldp p s.freeCtr }))
      else exec (.lldpSend p) s = .next s) ∧
      (if p.val < 4 ∧ frameKind frame = .request ∧ clear (framePrio frame) then
        ∃ u, exec (.rdmaRequestReceive ⟨p, frame⟩) s = Host.Outcome.next u ∧
          u = { with_ { x with tx := (u.ing.port[p]).tx } with freeCtr := u.freeCtr } ∧
          natAt (u.ing.port[p]).tx 0 1 = 0x11 ∧ natAt (u.ing.port[p]).tx 12 1 = 0x61
      else exec (.rdmaRequestReceive ⟨p, frame⟩) s = .next s) ∧
      (if p.val < 4 ∧ (frameKind frame = .other ∨ (frameKind frame = .response ∧ ∀ c, connOf frame = some c → (s.conn c).used = false))
      then exec (.ethernetFrameDiscard ⟨p, frame⟩) s = .next (with_ { x with rxDrop := satAdd x.rxDrop 1 })
      else exec (.ethernetFrameDiscard ⟨p, frame⟩) s = .next s) ∧
      exec (.pfcFrameReceive p prios time) s =
        .next (with_ { x with paused := if time = 0 then x.paused &&& ~~~prios else x.paused ||| prios })) ∧
    exec (.pfcPauseExpiry p prios) s = .next (with_ { x with paused := x.paused &&& ~~~prios }) ∧
    (x.phase ≠ .service → exec (.ingPortReset p) s = .next s) ∧
    (x.phase = .service → 4 ≤ p.val → exec (.ingPortReset p) s = .next (with_ { x with phase := .settling })) ∧
    (x.phase = .service → p.val < 4 → (∀ c : Conn, (s.conn c).used = false) →
      exec (.ingPortReset p) s = .next (with_ { x with phase := .settling }))

/-- Every byte of memory of u is that of s, or the last that the cells store there. -/
def Sys2Proof.StoresOnly (s u : State) (cells : List (Nat × Byte)) : Prop :=
  ∀ l : Loc, u.byteAt l = (cellFor s cells l).getD (s.byteAt l)

/-- Bytes as cells from an address on. -/
def Sys2Proof.cellsAt (a : Nat) (bs : List Byte) : List (Nat × Byte) := (List.range bs.length).zip bs |>.map fun q => (a + q.1, q.2)

/-- Reads of the Clicker: a read of the segment being filled goes out on its connection once its blocks are claimed; a
response is stored in the staging area and advances the oldest read, whose blocks go back as they fill, and the segment goes to
a decode engine once it is whole; a timeout tries again, and after the seventh retry, or with an entry that is not valid, the
loader stalls at the connection.
The model's choices it rests on are log entries 3, 85, 86, 91, 92. -/
def Obligations.SegmentsAreRead : Prop :=
  ∀ (c : Conn) (data : List Byte) (ce : Bool) (s : State), s.fastOn = true → SMap.wf RoceConn.unused s.ing.conns = true →
    let x := s.conn c
    let b := s.connEntry c
    let y : RoceConn := if x.used = true then x else { x with psn := BitVec.ofNat 24 (natAt b 44 3), used := true, entry := b }
    let from_ := s.ing.segBytes + (x.reads.map Prod.snd).sum
    let n := min maxRead (s.segLength - from_)
    let p := s.ing.port[connPort b]
    let due := s.ing.state = .filling ∧ s.ing.current < s.ing.gBatch.toNat ∧ natAt s.curEntry 16 2 = c.val ∧
      s.ing.decode.length < 256
    let stalls := fun (i : Instr) => ∃ u, exec i s = Host.Outcome.next u ∧ u.ing.state = .stalled ∧
      u.ing.stallConn = BitVec.ofNat 12 c.val ∧ (u.conn c).error = true ∧ (u.conn c).reads = [] ∧ u.stack = s.stack
    (due → x.error = false → x.used = true ∨ connValid b = true → p.up = true → bitOf p.paused (natAt b 50 1) = false →
      x.reads.length < 16 → 0 < n → ∀ bs, (s.welt.claimAll .ing clickerBlocks (blocksOf n)).2 = some bs →
      ∃ u, exec (.rdmaReadSend c) s = Host.Outcome.next u ∧ u.welt = (s.welt.claimAll .ing clickerBlocks (blocksOf n)).1 ∧
        u.conn c = { y with reads := x.reads ++ [(from_, n)], blocks := x.blocks ++ bs
                            psn := y.psn + BitVec.ofNat 24 ((n + 2 ^ (natAt b 47 1 + 7) - 1) / 2 ^ (natAt b 47 1 + 7)) } ∧
        u.ing.port[connPort b].tx = s.readFrame b y.psn from_ n ∧
        u.ing.held = s.ing.held + blocksOf n ∧ u.stack = s.stack ∧ u.cores = s.cores) ∧
    (due → x.error = true ∨ (x.used = false ∧ connValid b = false) → stalls (.rdmaReadSend c)) ∧
    (∀ o m rest, x.reads = (o, m) :: rest → s.ing.state = .filling → s.ing.stopping = false → data ≠ [] → data.length ≤ m →
      p.up = true → x.used = true → MemoriesWf s → (∀ a, s.ins.isEpoch a = false) →
      let prof := profileOf s.ing.gProf
      let cells := (List.range data.length).zip data |>.map fun q => (prof.stageBase + (o + q.1) % max 1 prof.stageSize, q.2)
      let got := s.ing.segBytes + data.length
      ∃ u, exec (.roceResponseReceive c data ce) s = Host.Outcome.next u ∧ StoresOnly s u cells ∧
        (if (s.stageSegment o data).segLength ≤ got then
          u.ing.segBytes = 0 ∧ u.ing.segData = [] ∧ u.ing.readSegs = s.ing.readSegs + 1 ∧
            u.ing.decode = s.ing.decode ++ [(s.ing.readSegs, s.ing.segData ++ data)]
        else u.ing.segBytes = got ∧ u.ing.segData = s.ing.segData ++ data ∧ u.ing.decode = s.ing.decode) ∧
        u.conn c = { x with reads := if data.length = m then rest else (o + data.length, m - data.length) :: rest
                            blocks := x.blocks.drop (blocksOf m - blocksOf (m - data.length)), retries := 0
                            cnp := (u.conn c).cnp, cnpAt := (u.conn c).cnpAt } ∧
        ((u.conn c).cnp = true → x.cnp = true ∨ ce = true)) ∧
    (x.error = false → x.reads ≠ [] → x.used = true →
      (x.retries < 7 → ∃ u, exec (.roceRetryTimeout c) s = Host.Outcome.next u ∧ u.conn c = { x with retries := x.retries + 1 } ∧
        u.stack = s.stack ∧ u.cores = s.cores) ∧
      (7 ≤ x.retries → stalls (.roceRetryTimeout c)))

/-- A decoded segment's records are stored at its sample's place of the pool, its demultiplexer's errors are counted, and the
sample is done; once every sample of a batch is done its counts are stored, the batch is READY, the semaphore of the bound core
counts 1 more, and filling goes on with the next batch; the position of the next step's batch is stored once in each attempt.
The model's choices it rests on are log entries 85, 86, 89, 132. -/
def Obligations.BatchesBecomeReady : Prop :=
  ∀ (d : Decoded) (s : State), s.fastOn = true → MemoriesWf s → (∀ a, s.ins.isEpoch a = false) →
    let c := s.ing
    let x := profileOf c.gProf
    let b := s.segEntry (s.entryIndex d.slot)
    let m := fun (bytes : List Byte) => demux (natAt b 40 1) (natAt b 18 2) bytes
    let recs := fun (bytes : List Byte) => x.records d ((m bytes).video && streamWithin d.stream) (natAt b 24 8) (natAt b 20 2)
      (natAt b 22 2) (c.gRps - x.capRecs) ((List.range 4).map fun i => natAt b (32 + 2 * i) 2)
      (s.bytes false x.hcoef 1024) (s.bytes false x.vcoef 1024) fun i => (Config.free (s.freeCtr + i)).toNat
    let g := (s.shuffleAxis.map GroupAxis.g).getD 1
    let i := c.fillEpoch.toNat % max 1 c.gNbatch.toNat
    (∀ bytes, c.state = .filling ∨ c.state = .stalled → (c.decode.find? fun q => q.1 == d.slot) = some (d.slot, bytes) →
      (s.welt.claimAll .ing clickerBlocks (blocksOf x.recSize)).2.isSome = true → (m bytes).audio = [] →
      ∃ u, exec (.segmentDecodeComplete d) s = Host.Outcome.next u ∧
        StoresOnly s u (cellsAt (s.sampleAddr d.slot) (recs bytes).flatten) ∧
        u.ing = { c with doneSegs := NatSet.add c.doneSegs d.slot, decode := c.decode.filter fun q => q.1 != d.slot
                         tsErr := satAdd c.tsErr (m bytes).errors }) ∧
    (∀ w k, c.state = .filling → c.stopping = false → c.gBatch.toNat ≤ c.doneSegs.length → s.commOn c.gComm = some (w, k) →
      let n := commCore w
      (s.core n).region = none → ((s.core n).arch.semOf c.gSem.toNat).count ≠ 65535 → i < c.slots.length →
      ∃ u, exec .batchReady s = Host.Outcome.next u ∧
        StoresOnly s u (cellsAt (s.slotAddr c.fillEpoch.toNat + s.batchRecords * c.gZ)
          (padTo 256 ((List.range g).flatMap fun _ => leBytes 4 (c.gBatch.toNat / g * c.gRps)))) ∧
        u.ing.slots.getD i .free = .ready ∧ u.ing.fillEpoch = c.fillEpoch + 1 ∧
        ((u.core n).arch.semOf c.gSem.toNat).count = ((s.core n).arch.semOf c.gSem.toNat).count + 1) ∧
    (c.state ≠ .idle → s.attemptNo < c.posNo → exec .loaderPositionWrite s = .next s) ∧
    (c.state ≠ .idle → c.posNo ≤ s.attemptNo → s.step.committing = none ∨ s.attemptNo ≠ s.step.given →
      ∃ u, exec .loaderPositionWrite s = Host.Outcome.next u ∧ u.ing = { c with posNo := s.attemptNo + 1 } ∧
        StoresOnly s u (cellsAt (c.gPos.toNat * 64)
          (leBytes 8 (s.loaderPos s.epoch + BitVec.ofNat 64 c.gBatch.toNat).toNat)))

/-! ### The control complex (R389, R417, R418, R425, R429, R430, R487) -/

/-- A frame of the control complex that arrives passes through ING blocks and is stored with its header at the head of the
receive ring, with a timestamp within 4 ns where it is an IEEE 1588 event message on a control port, or counted where the ring
is full; without blocks it waits. The frame at the head of the transmit ring leaves by its port, a one-step message with its
timestamp in it, and, where it asks for one, its timestamp is stored; one that is no frame is passed over. Writes of the rings'
registers set base, size and indexes, a transmit tail too far ahead being ignored.
The model's choices it rests on are log entries 91, 93, 94. -/
def Obligations.FrameRings : Prop :=
  ∀ (p : Port) (frame : List Byte) (tx : Bool) (v : Word) (tail : BitVec 16) (s : State),
    MemoriesWf s → (∀ a, s.ins.isEpoch a = false) →
    let r := s.ctx.rx
    let q := s.ctx.tx
    let header := fun (ptp : Bool) (ts : Word) => leBytes 2 frame.length ++ leBytes 1 p.val ++ leBytes 1 (b2n ptp) ++ leBytes 4 0 ++
      leBytes 8 ts.toNat ++ List.replicate 48 0
    let ptp := decide (4 ≤ p.val) && isEventMessage frame
    let near := fun (ts : Word) => ∃ k ≤ 8, ts = s.now - 4 + BitVec.ofNat 64 k
    let a := q.slotAt q.head
    let head := s.bytes false a 64
    let out := s.bytes false (a + 64) (natAt head 0 2)
    let d : Port := Fin.ofNat 8 (natAt head 2 1)
    let asks := decide (natAt head 3 1 / 2 % 2 = 1) && decide (4 ≤ d.val)
    let mine := s.ethUp p = true ∧ frameSize frame = true ∧ (p.val < 4 → frameKind frame = .complex) ∧
      natBE frame (typeOff frame) 2 ≠ 0x8808
    let blocks := fun (n : Nat) => (s.welt.claimAll .ing clickerBlocks (blocksOf n)).2.isSome = true
    let set := fun (f : FrameRing) =>
      { f with base := BitVec.ofNat 48 (bitsOf v 63 16), lslots := BitVec.ofNat 4 (bitsOf v 3 0), head := 0, tail := 0 }
    (mine → ¬ blocks frame.length → ∃ u, exec (.ccFrameReceive p frame) s = Host.Outcome.next u ∧ u = { s with welt := u.welt }) ∧
    (mine → blocks frame.length → r.fill = r.slots → ∃ u, exec (.ccFrameReceive p frame) s = Host.Outcome.next u ∧
      u = { s with welt := u.welt, ctx := { s.ctx with rx := { r with drops := satAdd r.drops 1 } } }) ∧
    (¬ mine → exec (.ccFrameReceive p frame) s = .next s) ∧
    (mine → blocks frame.length → r.fill ≠ r.slots → ∃ u ts, exec (.ccFrameReceive p frame) s = Host.Outcome.next u ∧
      StoresOnly s u (cellsAt (r.slotAt r.head) (header ptp ts ++ frame)) ∧ u.ctx.rx = { r with head := r.head + 1 } ∧
      u.ctx.pend.getLsbD 17 = true ∧ (if ptp = true then near ts else ts = 0)) ∧
    (q.head = q.tail → exec .ccFrameTransmit s = .next s) ∧
    (q.head ≠ q.tail → s.fastOn = true → s.anyPoison false a 64 = true ∨ frameSize out = false →
      exec .ccFrameTransmit s = .next { s with ctx := { s.ctx with tx := { q with head := q.head + 1 } } }) ∧
    (q.head ≠ q.tail → s.anyPoison false a 64 = false → s.anyPoison false (a + 64) (natAt head 0 2) = false →
      frameSize out = true → blocks out.length → s.ethUp d = true → bitOf s.ing.port[d].paused (framePrio out) = false →
      ∃ u ts, exec .ccFrameTransmit s = Host.Outcome.next u ∧ near ts ∧
        StoresOnly s u (if asks = true then
          cellsAt (a + 8) (leBytes 8 ts.toNat) ++ cellsAt (a + 3) [BitVec.ofNat 8 (natAt head 3 1 ||| 1)] else []) ∧
        u.ctx.tx = { q with head := q.head + 1 } ∧ u.ing.port[d] = { s.ing.port[d] with tx := if 4 ≤ d.val then oneStep out ts else out } ∧
        u.ctx.pend.getLsbD 18 = true) ∧
    exec (.ctxRingWrite tx v) s =
      .next { s with ctx := if tx = true then { s.ctx with tx := set q } else { s.ctx with rx := set r } } ∧
    exec (.ctxRxidxTailWrite tail) s = .next { s with ctx := { s.ctx with rx := { r with tail := tail } } } ∧
    exec (.ctxTxidxTailWrite tail) s = .next (if (tail - q.head).toNat > q.slots then s
      else { s with ctx := { s.ctx with tx := { q with tail := tail } } })

/-- A hart of a running control complex loads from and stores to registers with 8-byte accesses and any scratch it reaches,
and loads from and stores to cached copies of the other memory it reaches: a copy that is there answers whatever memory holds,
one that is not is read from memory, and a store changes the copy alone. CBO.CLEAN and CBO.FLUSH send the dirty copies of their
line to memory, CBO.INVAL and CBO.FLUSH drop its copies, and a FENCE with successor O ends once what its hart sent is
acknowledged, which is when memory has it. Every other access ends with an access fault that keeps its address.
The model's choices it rests on are log entries 95, 96, 125. -/
def Obligations.HartAccesses : Prop :=
  ∀ (h : Hart) (x : Access) (s : State), s.fastOn = true → s.ctx.running = true →
    (∀ n, s.coreAt x.addr.toNat = some n → s.clk.gate[clusterOf n] = .on) →
    let a := x.addr.toNat
    let l := a / 64
    let inRegs := regBase ≤ a ∧ a < regBase + 0xB000000
    let done := { s.ctx with accessFault := vput s.ctx.accessFault h false }
    let runs := exec (.ccMemoryAccess h x) s
    let faults := runs = .next { s with ctx := { s.ctx with
      accessFault := vput s.ctx.accessFault h true, faultAddr := vput s.ctx.faultAddr h x.addr } }
    let block := (s.welt.claimAll .ctl ctlBlock 1).2.isSome = true
    let plain := MemoriesWf s ∧ ∀ a, s.ins.isEpoch a = false
    let gone := s.ctx.cache.filter fun y => y.line != l
    let sent := fun (who : Option Hart) => s.ctx.wb ++ (s.ctx.cache.filter fun y => y.line == l && y.dirty).map fun y =>
      { hart := who, line := l, data := y.data : WriteBack }
    let next := fun (k : Nat) => x.op == .store && s.lineNext k
    (∀ off v, inRegs → regOff a = some off → x.bytes = 8 → s.readReg off = some v →
      (x.op = .load → runs = .next { s with ctx := { done with load := vput s.ctx.load h v } }) ∧
      (x.op = .store → runs = .next ((s.writeReg off x.data).hartDone h none))) ∧
    (inRegs → x.op = .load ∨ x.op = .store →
      regOff a = none ∨ x.bytes ≠ 8 ∨ (∃ off, regOff a = some off ∧ s.readReg off = none) → faults) ∧
    (¬ inRegs → s.reach a x.bytes = true → s.cacheable a = false → s.serves a = true → block →
      (x.op = .load → x.ecc = .clean → s.anyPoison false a x.bytes = false → ∃ u, runs = Host.Outcome.next u ∧
        u = { s with welt := u.welt
                     ctx := { done with load := vput s.ctx.load h (BitVec.ofNat 64 (leNat (s.bytes false a x.bytes))) } } ∧
        StoresOnly s u []) ∧
      (x.op = .store → x.ecc = .clean → s.anyPoison true a x.bytes = false → plain → ∃ u, runs = Host.Outcome.next u ∧
        StoresOnly s u (cellsAt a (leBytes x.bytes x.data.toNat)) ∧ u.ctx = done ∧ u.fab = s.fab ∧ u.clk = s.clk)) ∧
    (¬ inRegs → s.reach a x.bytes = true → s.cacheable a = true →
      (∀ k ∈ linesOf a x.bytes, (s.cached (next k) k).isSome = true) →
      (x.op = .load → runs = .next { s with ctx := { done with
        load := vput s.ctx.load h (BitVec.ofNat 64 (leNat ((List.range x.bytes).map fun i => s.cachedByte false (a + i)))) } }) ∧
      (x.op = .store → (∀ y ∈ s.ctx.cache, y.data.length = 64) → ∃ u, runs = Host.Outcome.next u ∧
        u = { s with ctx := { done with cache := u.ctx.cache } } ∧
        (∀ i < x.bytes, u.cachedByte (s.lineNext ((a + i) / 64)) (a + i) = (leBytes x.bytes x.data.toNat).getD i 0) ∧
        ∀ e b, b < a ∨ a + x.bytes ≤ b → u.cachedByte e b = s.cachedByte e b)) ∧
    (¬ inRegs → x.op = .load → s.reach a x.bytes = true → s.cacheable a = true → linesOf a x.bytes = [l] →
      s.cached false l = none → (∀ w ∈ s.ctx.wb, w.line ≠ l) → s.ctx.cache.length < cacheLines → s.serves (l * 64) = true →
      block → x.ecc = .clean → s.anyPoison false (l * 64) 64 = false → ∃ u, runs = Host.Outcome.next u ∧ StoresOnly s u [] ∧
        u = { s with welt := u.welt
                     ctx := { done with
                       load := vput s.ctx.load h (BitVec.ofNat 64 (leNat (s.bytes false a x.bytes)))
                       cache := s.ctx.cache ++ [{ line := l, next := false, dirty := false, data := s.bytes false (l * 64) 64 }] } }) ∧
    (¬ inRegs → x.op = .load ∨ x.op = .store → s.reach a x.bytes = false ∨ (s.cacheable a = false ∧ s.serves a = false) ∨
      (s.cacheable a = true ∧ ∃ k ∈ linesOf a x.bytes, s.misses (next k) k = true ∧ s.serves (k * 64) = false) → faults) ∧
    (x.op = .clean ∨ x.op = .flush ∨ x.op = .inval →
      (inRegs → runs = .next { s with ctx := done }) ∧ (¬ inRegs → s.reach a 1 = false → faults) ∧
      (¬ inRegs → s.reach a 1 = true → runs = .next { s with ctx := match x.op with
        | .clean => { done with wb := sent (some h), cache := s.ctx.cache.map fun y => if y.line == l then { y with dirty := false } else y }
        | .flush => { done with wb := sent (some h), cache := gone }
        | _ => { done with cache := gone } })) ∧
    (x.op = .evict → runs = .next { s with ctx := { s.ctx with wb := sent none, cache := gone } }) ∧
    (x.op = .ack → ∀ w rest, s.ctx.wb = w :: rest → s.serves (w.line * 64) = true → block → plain →
      ∃ u, runs = Host.Outcome.next u ∧ StoresOnly s u (cellsAt (w.line * 64) w.data) ∧ u.ctx = { s.ctx with wb := rest }) ∧
    (x.op = .ack → s.ctx.wb = [] → runs = .next s) ∧
    (x.op = .fence false ∨ (x.op = .fence true ∧ ∀ w ∈ s.ctx.wb, w.hart ≠ some h) → runs = .next { s with ctx := done }) ∧
    (x.op = .fence true → ∀ w, s.ctx.wb = [w] → w.hart = some h →
      (s.serves (w.line * 64) = false → runs = .next s) ∧
      (s.serves (w.line * 64) = true → block → plain →
        ∃ u, runs = Host.Outcome.next u ∧ StoresOnly s u (cellsAt (w.line * 64) w.data) ∧ u.ctx = { done with wb := [] }))

/-- A register holds what is written to its plain fields: the registers that have no other field read back the written
bits, the write-one-to-clear fields lose the bits written 1, and a write to no register changes nothing.
The model's choice it rests on is log entry 97. -/
def Obligations.RegisterWrites : Prop :=
  ∀ (v : Word) (s : State),
    let holds := fun (off : Nat) (mask : Word) => ∃ u, exec (.registerWrite (BitVec.ofNat 64 (regBase + off)) v) s = Host.Outcome.next u ∧
      u.readReg off = some (v &&& mask)
    (∀ n : Core, holds (0x100000 * n.val) 0xFFFFFFFFFFFFFFF8 ∧ holds (0x100000 * n.val + 0x08) 0xFFFFFFFFFFFFFFFF ∧
      holds (0x100000 * n.val + 0x38) 0x00000000FFFFFF00 ∧
      exec (.registerWrite (BitVec.ofNat 64 (regBase + 0x100000 * n.val + 0x20)) v) s =
        .next { s with cores := vput s.cores n { s.core n with reg := { (s.core n).reg with
          health := (s.core n).reg.health &&& ~~~ (v.truncate 8) } } }) ∧
    holds 0x2000008 0xFFF ∧ holds 0x2000030 0xFFFFFFFFFFFFFFFF ∧
    (∀ k : Fin 7, holds (0x2000100 + 8 * k.val) 0x3FFFF03FFFF) ∧
    holds 0x3000008 0x3F3F ∧ (∀ k : Fin 8, holds (0x3000100 + 8 * k.val) 0x3FFFFFFFFFFFFFF) ∧
    holds 0x4000010 0xFFFF ∧ holds 0x4000018 0xFF ∧
    holds 0x6000008 0xFFFFFFFFFFFFFFFF ∧ holds 0x6000010 0xFFFFFFFFFFFFFFFF ∧
    (∀ k : Fin 5, holds (0x6000020 + 8 * k.val) 0xFFFFFFFFFFFFFFC0) ∧
    (∀ h : Hart, holds (0x7000100 + 8 * h.val) 0xFFFFFFFF) ∧ holds 0x8000028 0xFFFFFFFF ∧ holds 0x9000000 0xF ∧
    (∀ k : Fin 32, holds (0xA000100 + 8 * k.val) 0xFFFFFFFFFFFFFFFF) ∧
    exec (.registerWrite (BitVec.ofNat 64 (regBase + 0x7000000)) v) s =
      .next { s with ctx := { s.ctx with pend := s.ctx.pend &&& ~~~ (v.truncate 32) } } ∧
    ∀ a : Word, regOff a.toNat = none → exec (.registerWrite a v) s = .next s

/-! ### Clocks and gating (R452, R463, R465, R467, R468, R477 to R480) -/

/-- What a command or a step answers that changes only the clocks. -/
def Sys2Proof.ClocksBecome (i : Instr) (s : State) (k : Clocks) : Prop := exec i s = Host.Outcome.next { s with clk := k }

/-- Jobs are entered from JOINED and left with no core busy; the requested frequencies, the counter and the policy take what
is written; both limits fall by one while a limit holds and rise otherwise, within their bounds; a cluster gates its clocks
when idle under its policy, powers off keeping scratch and registers, wakes and is on again; and while no command waits,
by the model's choice of log entry 1, the counter advances by 40 ns of AOCLK, or by 6.4 ns adjusted, rounded to one of the
two nearest steps, while busy cores count cycles and the Ethernet ports do their flow control.
The model's choices it rests on are log entries 1, 11, 90. -/
def Obligations.Clocks : Prop :=
  ∀ (cc : BitVec 8) (ac : BitVec 5) (v : Word) (pol : BitVec 8) (c : Cluster) (s : State),
    let k := s.clk
    (if k.state = .joined then ClocksBecome .clkJobEnter s { k with state := .active, jobStatus := .ok }
      else ClocksBecome .clkJobEnter s { k with jobStatus := .busy }) ∧
    (if k.state = .active ∧ s.anyBusy = false then ClocksBecome .clkJobLeave s { k with state := .joined, jobStatus := .ok }
      else ClocksBecome .clkJobLeave s { k with jobStatus := .busy }) ∧
    ClocksBecome (.clkFreqWrite cc ac) s { k with cclk := cc, aclk := ac } ∧
    (∃ u, exec (.clkTimeWrite v) s = Host.Outcome.next u ∧ u = { s with clk := { k with time := u.clk.time } } ∧ u.now = v ∧
      u.clk.time.truncate 32 = (0 : BitVec 32)) ∧
    (∃ u, exec (.clkTstepWrite v) s = Host.Outcome.next u ∧ u = { s with clk := { k with time := u.clk.time } } ∧ u.now = s.now + v ∧
      (u.clk.time.truncate 32 : BitVec 32) = k.time.truncate 32) ∧
    (∃ u, exec (.clkClupolWrite pol) s = Host.Outcome.next u ∧ u = { s with clk := { k with policy := pol, gate := u.clk.gate } } ∧
      ∀ d : Cluster, u.clk.gate[d] =
        if policyOf pol d = 0 ∧ (k.gate[d] = .clockGated ∨ k.gate[d] = .powerGated) then .waking else k.gate[d]) ∧
    (s.firmwareUp = true → ∃ u, exec .clockLimitStep s = Host.Outcome.next u ∧
      u = { s with clk := { k with aclkLim := u.clk.aclkLim, cclkLim := u.clk.cclkLim } } ∧
      u.clk.aclkLim.toNat = (if s.cbl.limitHolds = true then max 8 (k.aclkLim.toNat - 1) else min 16 (k.aclkLim.toNat + 1)) ∧
      u.clk.cclkLim.toNat = (if s.cbl.limitHolds = true then max 16 (k.cclkLim.toNat - 1) else min 32 (k.cclkLim.toNat + 1))) ∧
    (s.fastOn = true →
      (k.gate[c] = .on → policyOf k.policy c ≠ 0 → s.clusterIdle c = true →
        ClocksBecome (.clusterClockGate c) s { k with gate := vput k.gate c .clockGated, policyOn := k.policy }) ∧
      (k.gate[c] = .clockGated → policyOf k.policyOn c = 2 → ∃ u, exec (.clusterPowerGate c) s = Host.Outcome.next u ∧
        u = { s with clk := { k with gate := vput k.gate c .powerGated }, cores := u.cores, freeCtr := u.freeCtr } ∧
        ∀ n : Core, u.core n = { s.core n with arch := (u.core n).arch } ∧
          (u.core n).arch.scratch = (s.core n).arch.scratch ∧ (clusterOf n ≠ c → u.core n = s.core n)) ∧
      (k.gate[c] = .clockGated ∨ k.gate[c] = .powerGated →
        ClocksBecome (.clusterWake c) s { k with gate := vput k.gate c .waking }) ∧
      (k.gate[c] = .waking → ClocksBecome (.clusterWakeComplete c) s { k with gate := vput k.gate c .on })) ∧
    (s.pending = [] → k.state ≠ .off → k.locked = false → ∃ u, step s = Host.Outcome.next u ∧
      u = { s with clk := { k with time := k.time + BitVec.ofNat 96 (40 * 2 ^ 32) } }) ∧
    (s.pending = [] → k.state ≠ .off → k.locked = true → ∃ u d, step s = Host.Outcome.next u ∧
      u = { s with clk := { k with time := k.time + BitVec.ofNat 96 d }, cores := u.cores, freeCtr := s.freeCtr + 2
                   ing := { s.ing with port := u.ing.port } } ∧
      (s.fastOn = false → u.ing = s.ing) ∧
      (∀ p : Port, (s.ing.port[p]).up = true → 1024 < s.welt.freeTo .ing → s.fastOn = true → (u.ing.port[p]).xoff = 0) ∧
      (∀ p : Port, (s.ing.port[p]).up = true → s.welt.freeTo .ing < 512 → s.fastOn = true →
        (u.ing.port[p]).xoff = (s.ing.port[p]).xoff ||| (s.ing.port[p]).lossless) ∧
      (d : Int) * (5 * 2 ^ 40) > 2 ^ 37 * (2 ^ 40 + k.adj.toInt) - 5 * 2 ^ 40 ∧
      (d : Int) * (5 * 2 ^ 40) < 2 ^ 37 * (2 ^ 40 + k.adj.toInt) + 5 * 2 ^ 40 ∧
      ∀ n : Core, u.core n = { s.core n with cycles := (s.core n).cycles +
        if s.fastOn = true ∧ (s.core n).busy = true then 76 * k.pulses else 0 })

/-! ### Resets, freeze, start-up and trips (R441, R442, R452, R465, R466, R470 to R474, R482, R494, R510 to R513) -/

/-- The command takes a part that runs to FAULT: what it was is kept, FAULT_N is low, and the router is fenced (R494). -/
def Sys2Proof.EntersFault (i : Instr) (s : State) : Prop :=
  ∃ u, exec i s = Host.Outcome.next u ∧ u.clk.state = .fault ∧ u.clk.prev = s.clk.state ∧ u.clk.faultN = false ∧
    u.fab.fenced = true

/-- The part runs: it is not OFF, in STANDBY, FROZEN or in FAULT. -/
def Sys2Proof.Runs (s : State) : Prop :=
  s.clk.state = .boot ∨ s.clk.state = .ready ∨ s.clk.state = .joined ∨ s.clk.state = .active ∨ s.clk.state = .fenced

/-- Power-on and a lost rail leave what the fuses and the SPI NOR hold and reset everything else; RST_N low resets every unit
outside the always-on domain, and its rise lets start-up go on; FRZ_N low freezes a part that runs, with the counter and the
trigger kept and everything else held, and is recorded otherwise.
The model's choices it rests on are log entries 7, 99, 103, 104. -/
def Obligations.ResetsAndFreeze : Prop :=
  ∀ (s : State),
    let r := State.reset
    let c := s.cbl
    let k := s.clk
    let powered := fun (step : Nat) => ({ r with
      cbl := { r.cbl with fuses := c.fuses, boot := c.boot, slotA := c.slotA, slotB := c.slotB, certs := c.certs, mirror := c.mirror }
      clk := { r.clk with upStep := step }, freeCtr := s.freeCtr, pending := s.pending } : State)
    let warm := k.stages = true ∧ k.lock = true ∧ k.rref = true ∧ k.thermtripN = true
    let whole := ∀ g ∈ ([1, 2, 3, 4] : List Nat), c.genValid g = true ∨ c.fuses.zeros (0x200 + 256 * (g - 1)) 256 = true
    exec .powerOnReset s = .next (powered 1) ∧ exec .v33Loss s = .next (powered 0) ∧
    (k.state = .off → exec .rstNAssert s = .next { s with clk := { k with rstN := false } }) ∧
    (k.state ≠ .off → ∃ u, exec .rstNAssert s = Host.Outcome.next u ∧ u.cores = r.cores ∧ u.stack = r.stack ∧ u.welt = r.welt ∧
      u.fab = r.fab ∧ u.ins = r.ins ∧ u.coll = r.coll ∧ u.step = r.step ∧ u.ing = r.ing ∧ u.ctx = { r.ctx with hostGib := u.cbl.hostGib } ∧
      u.cbl = { c with meas := u.cbl.meas, genForce := u.cbl.genForce, ring := u.cbl.ring, unmirrored := u.cbl.unmirrored
                       nextSeq := u.cbl.nextSeq } ∧
      (c.genInUse = c.genForce → whole → u.cbl = c) ∧ u.clk.time = k.time ∧ u.clk.adj = k.adj ∧ u.awl.frzTime = s.awl.frzTime ∧
      u.clk.rstN = false ∧ u.clk.dieReset = true ∧
      u.clk.state = (if warm then .boot else .standby) ∧
      u.clk.upStep = if warm then 6 else 4) ∧
    (k.dieReset = false → exec .rstNRelease s = .next { s with clk := { k with rstN := true } }) ∧
    (k.dieReset = true → k.state ≠ .boot ∨ k.frzN = true →
      exec .rstNRelease s = .next { s with clk := { k with rstN := true, dieReset := false } }) ∧
    (k.dieReset = true → k.state = .boot → k.frzN = false → ∃ u, exec .rstNRelease s = Host.Outcome.next u ∧
      u.clk = { k with rstN := true, dieReset := false, prev := .boot, state := .frozen }) ∧
    exec .frzNRelease s = .next { s with clk := { k with frzDrive := false, frzN := true } } ∧
    (if k.frzDrive = true ∨ k.state = .frozen then exec .awlFreezeWrite s = .next s
    else exec .awlFreezeWrite s = .next { s with
      clk := { k with frzDrive := true, frzN := false }, awl := { s.awl with frzBy := 1, frzUnit := 0 } }) ∧
    (Runs s → k.dieReset = false → ∃ u, exec .frzNLow s = Host.Outcome.next u ∧
      u = { s with clk := { k with frzN := false, prev := k.state, state := .frozen }, awl := u.awl, cbl := u.cbl } ∧
      u.awl.frzTime = s.now ∧ u.awl.frzCause = (if k.frzDrive = true then s.awl.frzBy else 0) ∧ u.awl.trace = s.awl.trace ∧
      u.awl.numLog = s.awl.numLog) ∧
    (¬ Runs s ∨ k.dieReset = true → ∃ u, exec .frzNLow s = Host.Outcome.next u ∧
      u = { s with clk := { k with frzN := false }, awl := u.awl, cbl := u.cbl } ∧ u.awl.frzTime = s.awl.frzTime)

/-- Start-up goes from BOOT to READY, or JOINED where every port that must be up is, once the running image has every
component with its digest and the stacks train: memory is zero and the harts run; a stack that fails takes the part to
FAULT; without a rail or RREF the part stays STANDBY, and the retry after a second goes on from step 4 as start-up does, to
READY or JOINED, or FROZEN as it enters BOOT with FRZ_N low; with both images bad Cobbler is in recovery.
A loss of RREF or of a PLL, a voltage trip and a sample that trips take a part that runs to FAULT; a sample sets the
limits and ALERT_N.
The model's choices it rests on are log entries 98, 99, 101, 102. -/
def Obligations.StartUpAndTrips : Prop :=
  ∀ (env : StartEnv) (r : Rail) (x : Sensors) (s : State),
    let k := s.clk
    let whole := ∀ i ∈ ([2, 3, 4, 5, 6] : List Nat), ∃ y, s.cbl.compOf i = some y ∧ s.cbl.image.compGood y = true
    let ready := s.firmwareUp = true ∧ k.dieReset = false ∧ k.state = .boot ∧ k.upStep = 6 ∧ whole ∧
      ∀ y, s.cbl.compOf 5 = some y → y.len ≤ slotSize
    let missing := s.firmwareUp = true ∧ k.dieReset = false ∧ k.state = .standby ∧ k.upStep = 4 ∧ k.target = true ∧
      (env.rails = false ∨ env.rref = false)
    let hot := if 110 ≤ dieMax x then s.cbl.dieHot + 1 else 0
    let warned := sensorsWarned x s.cbl.powerLimit s.cbl.warned
    let due := s.firmwareUp = true ∧ k.dieReset = false ∧ k.state = .standby ∧ k.upStep = 4 ∧ k.target = true ∧
      env.rails = true ∧ env.rref = true
    (ready → env.failed = [] → ∃ u, exec (.startUpSequence env) s = Host.Outcome.next u ∧
      u.clk.state = (if s.allUp = true then .joined else .ready) ∧ u.clk.upStep = 0 ∧ u.welt.mem = [] ∧
      (∀ n : Core, (u.core n).arch.scratch = []) ∧ u.ctx.running = true ∧ u.ctx.phase = .service) ∧
    (ready → env.failed ≠ [] → EntersFault (.startUpSequence env) s) ∧
    (missing → (∃ u, exec (.startUpSequence env) s = Host.Outcome.next u ∧ u.clk = k) ∧
      ∃ u, exec (.startUpRetry env) s = Host.Outcome.next u ∧ u.clk = k) ∧
    (due → ∀ i ∈ [Instr.startUpRetry env, Instr.startUpSequence env], ∃ u, exec i s = Host.Outcome.next u ∧ u.clk.stages = true ∧
      (k.frzN = false → u.clk.state = .frozen ∧ u.clk.prev = .boot ∧ u.clk.upStep = 5) ∧
      (k.frzN = true → whole → (∀ y, s.cbl.compOf 5 = some y → y.len ≤ slotSize) → env.failed = [] →
        u.clk.state = (if s.allUp = true then .joined else .ready) ∧ u.clk.lock = true ∧ u.clk.rref = true ∧ u.clk.locked = true ∧
        u.clk.upStep = 0 ∧ u.welt.mem = [] ∧ (∀ n : Core, (u.core n).arch.scratch = []) ∧ u.ctx.running = true)) ∧
    (¬ (k.state = .standby ∧ k.upStep = 4) → exec (.startUpRetry env) s = .next s) ∧
    (k.dieReset = false → k.state = .off → k.upStep = 1 → s.cbl.record.pending = none →
      (∀ b, s.cbl.verify (s.cbl.slot b) true ≠ 0) → ∃ u, exec (.startUpSequence env) s = Host.Outcome.next u ∧
        u.clk.state = .standby ∧ u.clk.upStep = 4 ∧ u.cbl.recovery = true ∧ u.cbl.phase = .service) ∧
    (Runs s → k.lock = true → EntersFault .rrefLoss s ∧ EntersFault .pllLockLoss s) ∧
    (k.lock = false → ClocksBecome .pllLockLoss s k ∧
      ClocksBecome .rrefLoss s { k with rref := false, locked := false, lock := false }) ∧
    (Runs s → k.stages = true → EntersFault (.voltageComparatorTrip r) s ∧
      ∃ u, exec (.voltageComparatorTrip r) s = Host.Outcome.next u ∧ u.clk.stages = false ∧ u.clk.lock = false) ∧
    (s.firmwareUp = true → ∃ u, exec (.sensorSample x) s = Host.Outcome.next u ∧ u.cbl.sensors = x ∧
      u.cbl.warned = warned ∧ u.clk.alertN = warned.isEmpty ∧ u.cbl.dieHot = hot ∧
      u.cbl.limiting = (decide (100 ≤ dieMax x) || (s.cbl.limiting && decide (98 ≤ dieMax x))) ∧
      (sensorTrips x hot = false → u.clk.state = k.state)) ∧
    (s.firmwareUp = true → Runs s → sensorTrips x hot = true → EntersFault (.sensorSample x) s)

/-! ### Management (R434, R437, R440, R443 to R447, R453 to R461, R469, R472, R475, R483, R495) -/

/-- Whether the class of a client admits a command. -/
def Sys2Proof.Admits (s : State) (c : Client) (op mail : Bool) : Prop :=
  match c with
  | .session i => op = true → (s.cbl.sessions[i]).operator = true
  | .mailbox => mail = true

/-- The command i runs for its client as the table has it, and answers status, detail and payload of r in the state v. -/
def Sys2Proof.AnswersIn (i : Instr) (s : State) (c : Client) (code tag : BitVec 16) (st : Status) (detail : Byte) (body : List Byte)
    (v : State) : Prop :=
  exec i s = .next (v.sendReply c { code := code, tag := tag, status := st, detail := detail, payload := body })

/-- A command of R455 with its code, whether it is class O, whether the mailbox accepts it, and whether it runs in recovery:
one that the client cannot have asked changes nothing, one beyond its class ends with ABORTED, 0x81, and in recovery one
that R442 does not name ends with BUSY. -/
def Sys2Proof.Barred (s : State) (c : Client) (tag : BitVec 16) (i : Client → BitVec 16 → Instr) (code : BitVec 16)
    (op mail inRecovery : Bool) : Prop :=
  (s.asks c code tag = false → exec (i c tag) s = .next s) ∧
  (s.asks c code tag = true → ¬ Admits s c op mail → AnswersIn (i c tag) s c code tag .aborted 0x81 [] s) ∧
  (s.asks c code tag = true → Admits s c op mail → s.cbl.recovery = true → inRecovery = false →
    AnswersIn (i c tag) s c code tag .busy 0 [] s)

/-- A client may run a command now: it has the request in hand, its class admits it, and the part is not in recovery. -/
def Sys2Proof.MayRun (s : State) (c : Client) (code tag : BitVec 16) (op mail : Bool) : Prop :=
  s.asks c code tag = true ∧ Admits s c op mail ∧ s.cbl.recovery = false

/-- A command that its client cannot have asked changes nothing; one beyond its class ends with ABORTED, 0x81; in recovery
all but those R442 names end with BUSY; an unknown one ends with 0x80. A reply goes to its session, or into the mailbox's
buffer with its interrupt; GET_INFO, GET_QUOTE, GET_CERTS, READ_LOG, READ_SENSORS and READ_HEALTH answer what they read.
The model's choices it rests on are log entries 107, 111. -/
def Obligations.ManagementCommands : Prop :=
  ∀ (b1 b2 : List Byte) (i j k l : Nat) (f : Bool) (e : List (Port × Word)) (u : ResetUnit) (t : SelfTest) (bad : List Nat)
    (c : Client) (code tag : BitVec 16) (s : State),
    let q := s.cbl
    Barred s c tag .getInfo 0x01 false true true ∧
    Barred s c tag (.getQuote · · b1) 0x02 false true false ∧
    Barred s c tag .getCerts 0x03 false false false ∧
    Barred s c tag (.readLog · · i) 0x04 false true true ∧
    Barred s c tag .readSensors 0x05 false true false ∧
    Barred s c tag .readHealth 0x06 false true false ∧
    Barred s c tag (.fwWrite · · i b1) 0x20 true false true ∧
    Barred s c tag .fwVerify 0x21 true false true ∧
    Barred s c tag .fwActivate 0x22 true false true ∧
    Barred s c tag .fwCommit 0x23 true false false ∧
    Barred s c tag .fwLock 0x24 true false false ∧
    Barred s c tag (.fwRevoke · · i) 0x25 true false false ∧
    Barred s c tag (.fuseGen · · b2 f) 0x30 true false false ∧
    Barred s c tag (.setLast · · e) 0x40 true true false ∧
    Barred s c tag (.measure · · i b2) 0x41 true true false ∧
    Barred s c tag (.resetUnit · · u) 0x50 true false false ∧
    Barred s c tag (.power · · f) 0x51 true false false ∧
    Barred s c tag (.selfTest · · t f) 0x52 true false false ∧
    Barred s c tag .freeze 0x60 true false false ∧
    Barred s c tag (.readFrozen · · i j k l bad) 0x61 false false false ∧
    (s.asks c code tag = false → exec (.mgmtUnknownCommand c code tag) s = .next s) ∧
    (s.asks c code tag = true → knownCodes.contains code.toNat = false →
      AnswersIn (.mgmtUnknownCommand c code tag) s c code tag .aborted 0x80 [] s) ∧
    (∀ (n : Fin 4) (r : Reply), s.sendReply (.session n) r = { s with cbl := { q with replies := vput q.replies n (some r) } }) ∧
    (∀ (r : Reply), r.payload.length ≤ 240 → ∃ v, v = s.sendReply .mailbox r ∧ v.cbl.mbState = .reply ∧ v.cbl.rspStatus = r.status ∧
      v.ctx.pend.getLsbD 21 = true ∧ bitsOf v.cbl.mbRsp[0] 15 0 = r.code.toNat ∧ bitsOf v.cbl.mbRsp[0] 31 16 = r.tag.toNat ∧
      bitsOf v.cbl.mbRsp[0] 63 32 = r.payload.length ∧ bitsOf v.cbl.mbRsp[1] 7 0 = r.status.code ∧
      bitsOf v.cbl.mbRsp[1] 15 8 = r.detail.toNat) ∧
    (s.asks c 0x01 tag = true → Admits s c false true → ∃ p, AnswersIn (.getInfo c tag) s c 0x01 tag .ok 0 p s ∧
      p.take 19 = q.fuses.readN 0 19) ∧
    (MayRun s c 0x02 tag false true →
      AnswersIn (.getQuote c tag b1) s c 0x02 tag .ok 0 (s.quoteBody b1 ++ padTo 512 (Config.attest (s.quoteBody b1))) s) ∧
    (MayRun s c 0x03 tag false false → AnswersIn (.getCerts c tag) s c 0x03 tag .ok 0 q.certs s) ∧
    (s.asks c 0x04 tag = true → Admits s c false true → AnswersIn (.readLog c tag i) s c 0x04 tag .ok 0
      ((((q.mirror ++ q.unmirrored).filter fun r => i ≤ r.seq).take (if c = .mailbox then 60 else 1024)).map EvRec.bytes).flatten s) ∧
    (MayRun s c 0x05 tag false true → AnswersIn (.readSensors c tag) s c 0x05 tag .ok 0
      (((q.sensors.diodes ++ q.sensors.stack ++ q.sensors.volts ++ [q.sensors.power]).map fun y => leBytes 2 y).flatten ++
        q.sensors.stages.map fun y => BitVec.ofNat 8 (b2n y.1 + 2 * b2n y.2)) s) ∧
    (MayRun s c 0x06 tag false true → AnswersIn (.readHealth c tag) s c 0x06 tag .ok 0
      ((s.awl.health.map fun x => leBytes 4 x.1 ++ leBytes 4 x.2).flatten) s)

/-- Updates: FW_WRITE stores into the slot that is not active and FW_VERIFY checks it, both for the one client whose update
is open; FW_ACTIVATE makes a slot that passes pending with 3 tries and resets Cobbler; FW_COMMIT makes the pending image
that runs active. FW_LOCK raises the anti-rollback counter to the image's security version, FW_REVOKE revokes a key slot,
and FUSE_GEN programs the lowest unprogrammed generation, no other fuse changing.
The model's choices it rests on are log entries 98, 109. -/
def Obligations.FirmwareAndFuses : Prop :=
  ∀ (c : Client) (tag : BitVec 16) (off : Nat) (data : List Byte) (k : Nat) (block : List Byte) (good : Bool) (s : State),
    let q := s.cbl
    let d := q.verify (q.slot q.spare) false
    let svn := q.image.nat 4 1
    let kept := fun (v : State) (a n : Nat) => ∀ b, b < a ∨ a + n ≤ b → v.cbl.fuses.read b = q.fuses.read b
    let at_ := fun (g : Nat) => 0x200 + 256 * (g - 1)
    (s.asks c 0x20 tag = true → Admits s c true false →
      if s.updateBusy c = true then AnswersIn (.fwWrite c tag off data) s c 0x20 tag .busy 0 [] s
      else if data = [] ∨ 65536 < data.length ∨ slotSize < off + data.length then
        AnswersIn (.fwWrite c tag off data) s c 0x20 tag .aborted 0x83 [] s
      else ∃ v, AnswersIn (.fwWrite c tag off data) s c 0x20 tag .ok 0 [] v ∧ v = { s with cbl := { q with
          update := some c, slotA := v.cbl.slotA, slotB := v.cbl.slotB } } ∧
        v.cbl.slot q.record.activeB = q.slot q.record.activeB ∧ v.cbl.slot (!q.record.activeB) = (q.slot q.spare).writeN off data) ∧
    (s.asks c 0x21 tag = true → Admits s c true false →
      if s.updateBusy c = true then AnswersIn (.fwVerify c tag) s c 0x21 tag .busy 0 [] s
      else AnswersIn (.fwVerify c tag) s c 0x21 tag (if d = 0 then .ok else .aborted) (BitVec.ofNat 8 d) [] s) ∧
    (s.asks c 0x22 tag = true → Admits s c true false →
      if s.updateBusy c = true then AnswersIn (.fwActivate c tag) s c 0x22 tag .busy 0 [] s
      else if d ≠ 0 then AnswersIn (.fwActivate c tag) s c 0x22 tag .aborted (BitVec.ofNat 8 d) [] s
      else ∃ v, AnswersIn (.fwActivate c tag) s c 0x22 tag .ok 0 [] v ∧ v.cbl.record.pending = some q.spare ∧ v.cbl.record.tries = 3 ∧
        v.cbl.record.activeB = q.record.activeB ∧ v.cbl.phase = .returning ∧ v.cbl.uepoch = q.uepoch + 1 ∧ v.cbl.fuses = q.fuses) ∧
    (MayRun s c 0x23 tag true false → q.runningPending = true → ∃ v, AnswersIn (.fwCommit c tag) s c 0x23 tag .ok 0 [] v ∧
      v.cbl.record.activeB = q.runningB ∧ v.cbl.record.pending = none ∧ v.cbl.update = none ∧ v.cbl.runningPending = false) ∧
    (MayRun s c 0x23 tag true false → q.runningPending = false → ∃ st,
      AnswersIn (.fwCommit c tag) s c 0x23 tag st 0 [] { s with freeCtr := s.freeCtr + 1 }) ∧
    (MayRun s c 0x24 tag true false →
      if q.runningPending = true ∨ q.runningB ≠ q.record.activeB then AnswersIn (.fwLock c tag) s c 0x24 tag .busy 0 [] s
      else if svn ≤ q.arb then AnswersIn (.fwLock c tag) s c 0x24 tag .alreadyDone 0 [] s
      else ∃ v, AnswersIn (.fwLock c tag) s c 0x24 tag .ok 0 [] v ∧ v = { s with cbl := { q with fuses := v.cbl.fuses } } ∧
        (q.fuses.wf = true → v.cbl.arb = min svn 64 ∧ kept v 0x148 8)) ∧
    (MayRun s c 0x25 tag true false →
      if 3 < k then AnswersIn (.fwRevoke c tag k) s c 0x25 tag .aborted 0x83 [] s
      else if q.image.nat 5 1 = k then AnswersIn (.fwRevoke c tag k) s c 0x25 tag .busy 0 [] s
      else if q.revoked k = true then AnswersIn (.fwRevoke c tag k) s c 0x25 tag .alreadyDone 0 [] s
      else ∃ v, AnswersIn (.fwRevoke c tag k) s c 0x25 tag .ok 0 [] v ∧ v = { s with cbl := { q with fuses := v.cbl.fuses } } ∧
        (q.fuses.wf = true → v.cbl.revoked k = true ∧ kept v 0x140 1 ∧ ∀ j ≠ k, v.cbl.revoked j = q.revoked j)) ∧
    (MayRun s c 0x30 tag true false →
      if s.clk.state ≠ .standby ∧ s.clk.state ≠ .ready then AnswersIn (.fuseGen c tag block good) s c 0x30 tag .busy 0 [] s
      else if block.length ≠ 256 then AnswersIn (.fuseGen c tag block good) s c 0x30 tag .aborted 0x83 [] s
      else ((∀ g ∈ ([1, 2, 3, 4] : List Nat), q.fuses.zeros (at_ g) 256 = false) →
          AnswersIn (.fuseGen c tag block good) s c 0x30 tag .aborted 0x10 [] s) ∧
        ∀ g ∈ ([1, 2, 3, 4] : List Nat), q.fuses.zeros (at_ g) 256 = true → (∀ j, 1 ≤ j → j < g → q.fuses.zeros (at_ j) 256 = false) →
          ∃ v, AnswersIn (.fuseGen c tag block good) s c 0x30 tag (if good = true then .ok else .aborted) (if good = true then 0 else 0x11) [] v ∧
            v = { s with cbl := { q with fuses := v.cbl.fuses }, freeCtr := v.freeCtr } ∧
            (q.fuses.wf = true → kept v (at_ g) 256 ∧ (good = true → v.cbl.genBlock g = block) ∧
              (good = false → v.cbl.genValid g = false ∧ v.cbl.fuses.zeros (at_ g) 256 = false)))

/-- SET_LAST writes FAB_LAST of its ports; MEASURE extends one of M4 to M7; POWER starts the part from STANDBY, and takes one
that does not run a job to it with its units reset; SELF_TEST answers its result; FREEZE drives FRZ_N low; READ_FROZEN
answers a piece of a frozen space, and what R475 excludes ends with its detail.
The model's choices it rests on are log entries 103, 104, 107, 108, 110, 130. -/
def Obligations.PartCommands : Prop :=
  ∀ (c : Client) (tag : BitVec 16) (e : List (Port × Word)) (m : Nat) (digest : List Byte) (t : SelfTest) (pass : Bool)
    (space u off len : Nat) (bad : List Nat) (s : State),
    let q := s.cbl
    let r := State.reset
    (MayRun s c 0x40 tag true true → ∃ v, AnswersIn (.setLast c tag e) s c 0x40 tag .ok 0 [] v ∧ v = { s with fab := { s.fab with port := v.fab.port } } ∧
      ∀ p : Port, v.fab.port[p] = { s.fab.port[p] with
        last := ((e.reverse.find? fun x => x.1 = p).map Prod.snd).getD s.fab.port[p].last }) ∧
    (MayRun s c 0x41 tag true true →
      if m < 4 ∨ 7 < m ∨ digest.length ≠ 64 then AnswersIn (.measure c tag m digest) s c 0x41 tag .aborted 0x83 [] s
      else AnswersIn (.measure c tag m digest) s c 0x41 tag .ok 0 []
        { s with cbl := { q with meas := vput q.meas (Fin.ofNat 8 m) (Config.sha512 (digestBytes q.meas[(Fin.ofNat 8 m : Fin 8)] ++ digest)) } }) ∧
    (MayRun s c 0x51 tag true false →
      (if s.clk.state = .standby then
        AnswersIn (.power c tag true) s c 0x51 tag .ok 0 [] { s with clk := { s.clk with target := true, upStep := 4 } }
      else AnswersIn (.power c tag true) s c 0x51 tag .alreadyDone 0 [] s) ∧
      if s.isActive = true ∨ s.clk.state = .frozen ∨ s.clk.state = .fault then AnswersIn (.power c tag false) s c 0x51 tag .busy 0 [] s
      else ∃ v, AnswersIn (.power c tag false) s c 0x51 tag .ok 0 [] v ∧ v.clk.state = .standby ∧ v.clk.stages = false ∧
        v.clk.target = false ∧ v.clk.time = s.clk.time ∧ v.cores = r.cores ∧ v.stack = r.stack ∧ v.welt = r.welt ∧ v.fab = r.fab) ∧
    (MayRun s c 0x52 tag true false →
      if s.testBusy t = true then AnswersIn (.selfTest c tag t pass) s c 0x52 tag .busy 0 [] s
      else ∃ v, AnswersIn (.selfTest c tag t pass) s c 0x52 tag (if pass = true then .ok else .aborted) (if pass = true then 0 else 0x20) [] v ∧
        (testDestroys t = false → pass = true → v = s)) ∧
    (MayRun s c 0x60 tag true false → ∃ v, AnswersIn (.freeze c tag) s c 0x60 tag .ok 0 [] v ∧
      if s.clk.frzDrive = true ∨ s.clk.state = .frozen then v = s else v = { s with
        clk := { s.clk with frzDrive := true, frzN := false }, awl := { s.awl with frzBy := 2, frzUnit := 0 } }) ∧
    (MayRun s c 0x61 tag false false →
      let reads := fun (st : Status) (d : Byte) (v : State) => AnswersIn (.readFrozen c tag space u off len bad) s c 0x61 tag st d [] v
      if s.clk.state ≠ .frozen then ∃ st, reads st 0 { s with freeCtr := s.freeCtr + 1 }
      else if s.clk.prev = .boot ∧ s.clk.lock = false then reads .aborted 0x84 s
      else match spaceSize space u with
        | none => reads .aborted 0x83 s
        | some size =>
          if 65536 < len ∨ size < off + len then reads .aborted 0x83 s
          else bad = [] → (∀ j < (len + 63) / 64 * 64, s.frozenBad space u (off + j) = false) →
            ∃ p v, AnswersIn (.readFrozen c tag space u off len bad) s c 0x61 tag .ok 0 p v ∧ v = { s with freeCtr := v.freeCtr } ∧
              p.length = len ∧ (s.clk.contentsLost = false ∨ (space ≠ 1 ∧ space ≠ 2 ∧ space ≠ 6) →
                ∀ j < len, ∀ b, s.frozenByte space u (off + j) = some b → p.getD j 0 = b))

/-- Cobbler's log and mailbox: the changed health counts become one record each, the ring's records go to the mirror in
order, and the Awl's held records follow with a count of those it lost, none while the ring is full of records not yet
mirrored; a TLS client takes a free session; a doorbell hands
over the request of an idle mailbox and an acknowledge frees its reply.
The model's choices it rests on are log entries 100, 107. -/
def Obligations.LogAndMailbox : Prop :=
  ∀ (cert : List Byte) (s : State),
    let q := s.cbl
    let w := s.awl
    let new := fun (v : State) => v.cbl.unmirrored.drop q.unmirrored.length
    let cls := Config.certClass (q.anchor.getD [] ++ cert)
    (s.firmwareUp = true → w.held = [] → w.lost = 0 → q.unmirrored.length + w.healthNew.length ≤ 1024 → ∃ v, exec .healthRecordFlush s = Host.Outcome.next v ∧
      v.awl = { w with healthNew := [] } ∧ v.cbl.unmirrored.take q.unmirrored.length = q.unmirrored ∧
      (new v).map EvRec.count = w.healthNew.map (fun x => BitVec.ofNat 32 x.2) ∧
      (new v).map EvRec.seq = (List.range w.healthNew.length).map (q.nextSeq + ·)) ∧
    (s.cblUp = true → q.mirror.length + q.unmirrored.length ≤ 65536 → exec .eventMirrorWrite s =
      .next { s with cbl := { q with mirror := q.mirror ++ q.unmirrored, unmirrored := [] } }) ∧
    (s.cblUp = true → q.unmirrored.length + w.held.length < 1024 → ∃ v, exec .awlHeldRecordDelivery s = Host.Outcome.next v ∧
      v.awl = { w with held := [], lost := 0 } ∧ v.cbl.unmirrored.take q.unmirrored.length = q.unmirrored ∧
      (new v).map EvRec.code = w.held.map EvRec.code ++ (if w.lost = 0 then [] else [0x0903]) ∧
      (new v).map EvRec.count = w.held.map EvRec.count ++ (if w.lost = 0 then [] else [BitVec.ofNat 32 w.lost])) ∧
    (s.cblUp = true → 1024 ≤ q.unmirrored.length → exec .awlHeldRecordDelivery s = .next s) ∧
    (s.cblUp = true → cls = none ∨ (∀ i : Fin 4, (q.sessions[i]).isOpen = true) → exec (.mgmtSessionConnect cert) s = .next s) ∧
    (∀ o (i : Fin 4), s.cblUp = true → cls = some o → (q.sessions[i]).isOpen = false →
      (∀ j : Fin 4, j < i → (q.sessions[j]).isOpen = true) → exec (.mgmtSessionConnect cert) s = .next { s with cbl := { q with
        sessions := vput q.sessions i { isOpen := true, operator := o && q.anchor.isSome } } }) ∧
    exec .cblDoorbell s = .next { s with cbl := if s.cblUp = false then { q with lastStatus := .refusedReset }
      else if q.mbState = .idle then { q with lastStatus := .ok, mbState := .busy } else { q with lastStatus := .busy } } ∧
    (q.mbState ≠ .reply → exec .cblAck s = .next s) ∧
    (q.mbState = .reply → q.pieces = none → q.notices = [] → exec .cblAck s = .next { s with cbl := { q with mbState := .idle } }) ∧
    (∀ p n, q.mbState = .reply → q.pieces = some (p, n) → ∃ v, exec .cblAck s = Host.Outcome.next v ∧ v.cbl.mbState = .reply ∧
      bitsOf v.cbl.mbRsp[0] 31 16 = p.tag.toNat ∧ v.ctx.pend.getLsbD 21 = true ∧
      (p.payload.length ≤ 240 * (n + 1) ↔ v.cbl.pieces = none))

/-! ### Unit resets (R433, R441, R457, R483 to R488, R494) -/

/-- The unit takes requests. -/
def Sys2Proof.InService (s : State) (u : ResetUnit) : Prop :=
  match u with
  | .core n => (s.core n).phase = .service
  | .cluster c => ∀ n : Core, clusterOf n = c → (s.core n).phase = .service
  | .stack k => (s.stack[k]).state = .ready
  | .link _ => True
  | .eth p => (s.ing.port[p]).phase = .service
  | .ctx => s.ctx.phase = .service
  | .cobbler => s.cbl.phase = .service
  | .die => True

/-- Phase 1 of the unit's reset has been entered; a die reset is done at once. -/
def Sys2Proof.Refuses (s : State) (u : ResetUnit) : Prop :=
  match u with
  | .core n => (s.core n).phase = .settling
  | .cluster c => ∀ n : Core, clusterOf n = c → (s.core n).phase = .settling
  | .stack k => (s.stack[k]).state = .quiescing
  | .link p => (s.fab.port[p]).state ≠ .up
  | .eth p => (s.ing.port[p]).phase = .settling
  | .ctx => s.ctx.phase = .settling ∧ s.ctx.running = false
  | .cobbler => s.cbl.phase = .settling ∧ ∀ i : Fin 4, (s.cbl.sessions[i]).isOpen = false
  | .die => s.cores = State.reset.cores ∧ s.stack = State.reset.stack ∧ s.fab = State.reset.fab

/-- A reset by command enters phase 1 of the unit, but for the die and the control complex while the part is ACTIVE; as
Settle ends the unit is reset, with its epoch 1 higher, a core's scratch and a stack's epoch table kept; as it returns it takes requests again, a core
with the key and epoch of stack 0 and its interrupt raised. A lockstep mismatch resets Cobbler, and the third within an
hour holds it with FAULT_N low; its boot starts the active image where that verifies. A Settle or a stack's return that
does not end in time takes a part that runs to FAULT.
The model's choices it rests on are log entries 81, 103, 108. -/
def Obligations.UnitResets : Prop :=
  ∀ (c : Client) (tag : BitVec 16) (u : ResetUnit) (n : Core) (k : StackId) (p : Port) (s : State),
    let x := s.core n
    let q := s.cbl
    let recent := q.mismatchTimes.filter fun t => (s.now - t).toNat ≤ hourNs
    let settles := fun (w : ResetUnit) (t : State) => exec (.unitResetSettleEnd w) s = .next t
    let returns := fun (w : ResetUnit) (t : State) => exec (.unitResetReturn w) s = .next t
    (MayRun s c 0x50 tag true false → s.isActive = true → u = .die ∨ u = .ctx →
      AnswersIn (.resetUnit c tag u) s c 0x50 tag .busy 0 [] s) ∧
    (MayRun s c 0x50 tag true false → ¬ (s.isActive = true ∧ (u = .die ∨ u = .ctx)) → s.clocked u = true → InService s u →
      ∃ v, AnswersIn (.resetUnit c tag u) s c 0x50 tag .ok 0 [] v ∧ Refuses v u) ∧
    (s.fastOn = true → x.phase = .settling → s.step.flagSent = true → s.step.flagDone = false → ∃ t, settles (.core n) t ∧
      (t.core n).phase = .returning ∧ (t.core n).reg.run = .idle ∧ (t.core n).arch.scratch = x.arch.scratch ∧
      (t.core n).allIdle = true ∧ t.clk = { s.clk with coreEpoch := vput s.clk.coreEpoch n (s.clk.coreEpoch[n] + 1) } ∧
      ∀ m, m ≠ n → t.core m = s.core m) ∧
    (s.fastOn = true → x.phase = .returning → ∃ t, returns (.core n) t ∧ t.ctx.pend.getLsbD n.val = true ∧
      t.core n = { x with phase := .service, reg := { x.reg with srkey := (s.stack[(0 : Fin 24)]).srkey, srepoch := (s.stack[(0 : Fin 24)]).srepoch } } ∧
      ∀ m, m ≠ n → t.core m = s.core m) ∧
    (s.fastOn = true → (s.stack[k]).state = .quiescing → (s.stack[k]).queue = [] → settles (.stack k) { s with
      stack := vput s.stack k { s.stack[k] with
        state := .resetting, uepoch := (s.stack[k]).uepoch + 1, maint := (s.stack[k]).table, table := EpochTable.fresh } }) ∧
    (s.fastOn = true → (s.stack[k]).state = .resetting → returns (.stack k) { s with
      stack := vput s.stack k { s.stack[k] with state := .training } }) ∧
    (s.fastOn = true → (s.ing.port[p]).phase = .settling → ∃ t, settles (.eth p) t ∧ (t.ing.port[p]).up = false ∧
      (t.ing.port[p]).phase = .returning ∧ t.clk = { s.clk with ethEpoch := vput s.clk.ethEpoch p (s.clk.ethEpoch[p] + 1) }) ∧
    (s.fastOn = true → (s.ing.port[p]).phase = .returning → returns (.eth p) { s with
      ing := { s.ing with port := vput s.ing.port p { s.ing.port[p] with phase := .service } } }) ∧
    (s.ctx.phase = .service → exec .ctxReset s = .next { s with ctx := { s.ctx with phase := .settling, running := false, cache := [] } }) ∧
    (s.fastOn = true → s.ctx.phase = .settling → ∃ t, settles .ctx t ∧ t.clk = { s.clk with ctxEpoch := s.clk.ctxEpoch + 1 } ∧
      t.ctx.phase = .returning ∧ (∀ h : Hart, t.ctx.irqEn[h] = 0) ∧ t.ctx.pend = s.ctx.pend ∧ t.ctx.rx = s.ctx.rx ∧ t.ctx.tx = s.ctx.tx) ∧
    (∀ y, s.fastOn = true → s.ctx.phase = .returning → s.firmwareUp = true → q.compOf 5 = some y → q.image.compGood y = true →
      ∃ t, returns .ctx t ∧ t.ctx.phase = .service ∧ t.ctx.running = true ∧ ∀ h : Hart, (t.ctx.harts[h]).pc = 0x200000 ∧
        (t.ctx.harts[h]).a0 = BitVec.ofNat 64 h.val ∧ (t.ctx.harts[h]).a1 = 0 ∧ (t.ctx.harts[h]).machine = true) ∧
    (q.phase = .settling → ∃ t, settles .cobbler t ∧ t.cbl.phase = .returning ∧ t.cbl.uepoch = q.uepoch + 1 ∧ t.cbl.mbState = .reset ∧
      t.cbl.pieces = none ∧ t = { s with cbl := t.cbl }) ∧
    (q.phase = .returning → q.heldReset = false → s.clk.state ≠ .off → q.record.pending = none →
      q.verify (q.slot q.record.activeB) true = 0 → q.notices = [] → ∃ t, exec .cobblerBoot s = Host.Outcome.next t ∧
        t.cbl.phase = .service ∧ t.cbl.runningB = q.record.activeB ∧ t.cbl.recovery = false ∧ t.cbl.mbState = .idle ∧
        returns .cobbler t) ∧
    (s.clk.state ≠ .off → q.heldReset = false → ∃ t, exec .cobblerLockstepMismatch s = Host.Outcome.next t ∧
      t.cbl.phase = .returning ∧ t.cbl.uepoch = q.uepoch + 1 ∧ t.cbl.heldReset = decide (2 ≤ recent.length) ∧
      t.clk = { s.clk with faultN := s.clk.faultN && !decide (2 ≤ recent.length) }) ∧
    (s.settling u = false → exec (.settleTimeout u) s = .next s) ∧
    (s.clocked u = true → s.settling u = true → Runs s → EntersFault (.settleTimeout u) s) ∧
    (s.fastOn = true → Runs s → (s.stack[k]).state = .resetting ∨ (s.stack[k]).state = .training →
      EntersFault (.stackReturnTimeout k) s)

/-! ### Invariants of every step -/

/-- A blown fuse stays blown, whatever the step (R434). -/
def Obligations.FusesOnlyGainBits : Prop :=
  ∀ (s t : State), step s = Host.Outcome.next t → ∀ (a i : Nat),
    (s.cbl.fuses.read a).getLsbD i = true → (t.cbl.fuses.read a).getLsbD i = true

/-- Every step keeps every memory in its canonical form. -/
def Obligations.MemoriesStayCanonical : Prop :=
  ∀ (s t : State), MemoriesWf s → step s = Host.Outcome.next t → MemoriesWf t

/-- Every memory is in its canonical form at reset.
The model's choices it rests on are log entries 6, 8. -/
def Obligations.MemoriesAreCanonicalAtReset : Prop := MemoriesWf State.reset
end

