-- ==== Sys2Proof/Laws/State.lean ====
section
/-! SUPPORT. What each named update of the state leaves as it was: one lemma per field, and the readings of the one it
changes. -/

namespace Sys2Proof.Machine

/-! State.modCore -/

@[simp] theorem State.modCore_welt (s : State) (n : Core) (f : CoreSt → CoreSt) : (s.modCore n f).welt = s.welt := rfl
@[simp] theorem State.modCore_stack (s : State) (n : Core) (f : CoreSt → CoreSt) : (s.modCore n f).stack = s.stack := rfl
@[simp] theorem State.modCore_ins (s : State) (n : Core) (f : CoreSt → CoreSt) : (s.modCore n f).ins = s.ins := rfl
@[simp] theorem State.modCore_fab (s : State) (n : Core) (f : CoreSt → CoreSt) : (s.modCore n f).fab = s.fab := rfl
@[simp] theorem State.modCore_coll (s : State) (n : Core) (f : CoreSt → CoreSt) : (s.modCore n f).coll = s.coll := rfl
@[simp] theorem State.modCore_step (s : State) (n : Core) (f : CoreSt → CoreSt) : (s.modCore n f).step = s.step := rfl
@[simp] theorem State.modCore_ing (s : State) (n : Core) (f : CoreSt → CoreSt) : (s.modCore n f).ing = s.ing := rfl
@[simp] theorem State.modCore_ctx (s : State) (n : Core) (f : CoreSt → CoreSt) : (s.modCore n f).ctx = s.ctx := rfl
@[simp] theorem State.modCore_cbl (s : State) (n : Core) (f : CoreSt → CoreSt) : (s.modCore n f).cbl = s.cbl := rfl
@[simp] theorem State.modCore_clk (s : State) (n : Core) (f : CoreSt → CoreSt) : (s.modCore n f).clk = s.clk := rfl
@[simp] theorem State.modCore_awl (s : State) (n : Core) (f : CoreSt → CoreSt) : (s.modCore n f).awl = s.awl := rfl
@[simp] theorem State.modCore_freeCtr (s : State) (n : Core) (f : CoreSt → CoreSt) : (s.modCore n f).freeCtr = s.freeCtr := rfl
@[simp] theorem State.modCore_pending (s : State) (n : Core) (f : CoreSt → CoreSt) : (s.modCore n f).pending = s.pending := rfl

/-! State.modArch -/

@[simp] theorem State.modArch_welt (s : State) (n : Core) (f : CoreArch → CoreArch) : (s.modArch n f).welt = s.welt := rfl
@[simp] theorem State.modArch_stack (s : State) (n : Core) (f : CoreArch → CoreArch) : (s.modArch n f).stack = s.stack := rfl
@[simp] theorem State.modArch_ins (s : State) (n : Core) (f : CoreArch → CoreArch) : (s.modArch n f).ins = s.ins := rfl
@[simp] theorem State.modArch_fab (s : State) (n : Core) (f : CoreArch → CoreArch) : (s.modArch n f).fab = s.fab := rfl
@[simp] theorem State.modArch_coll (s : State) (n : Core) (f : CoreArch → CoreArch) : (s.modArch n f).coll = s.coll := rfl
@[simp] theorem State.modArch_step (s : State) (n : Core) (f : CoreArch → CoreArch) : (s.modArch n f).step = s.step := rfl
@[simp] theorem State.modArch_ing (s : State) (n : Core) (f : CoreArch → CoreArch) : (s.modArch n f).ing = s.ing := rfl
@[simp] theorem State.modArch_ctx (s : State) (n : Core) (f : CoreArch → CoreArch) : (s.modArch n f).ctx = s.ctx := rfl
@[simp] theorem State.modArch_cbl (s : State) (n : Core) (f : CoreArch → CoreArch) : (s.modArch n f).cbl = s.cbl := rfl
@[simp] theorem State.modArch_clk (s : State) (n : Core) (f : CoreArch → CoreArch) : (s.modArch n f).clk = s.clk := rfl
@[simp] theorem State.modArch_awl (s : State) (n : Core) (f : CoreArch → CoreArch) : (s.modArch n f).awl = s.awl := rfl
@[simp] theorem State.modArch_freeCtr (s : State) (n : Core) (f : CoreArch → CoreArch) : (s.modArch n f).freeCtr = s.freeCtr := rfl
@[simp] theorem State.modArch_pending (s : State) (n : Core) (f : CoreArch → CoreArch) : (s.modArch n f).pending = s.pending := rfl

/-! State.modReg -/

@[simp] theorem State.modReg_welt (s : State) (n : Core) (f : CoreRegs → CoreRegs) : (s.modReg n f).welt = s.welt := rfl
@[simp] theorem State.modReg_stack (s : State) (n : Core) (f : CoreRegs → CoreRegs) : (s.modReg n f).stack = s.stack := rfl
@[simp] theorem State.modReg_ins (s : State) (n : Core) (f : CoreRegs → CoreRegs) : (s.modReg n f).ins = s.ins := rfl
@[simp] theorem State.modReg_fab (s : State) (n : Core) (f : CoreRegs → CoreRegs) : (s.modReg n f).fab = s.fab := rfl
@[simp] theorem State.modReg_coll (s : State) (n : Core) (f : CoreRegs → CoreRegs) : (s.modReg n f).coll = s.coll := rfl
@[simp] theorem State.modReg_step (s : State) (n : Core) (f : CoreRegs → CoreRegs) : (s.modReg n f).step = s.step := rfl
@[simp] theorem State.modReg_ing (s : State) (n : Core) (f : CoreRegs → CoreRegs) : (s.modReg n f).ing = s.ing := rfl
@[simp] theorem State.modReg_ctx (s : State) (n : Core) (f : CoreRegs → CoreRegs) : (s.modReg n f).ctx = s.ctx := rfl
@[simp] theorem State.modReg_cbl (s : State) (n : Core) (f : CoreRegs → CoreRegs) : (s.modReg n f).cbl = s.cbl := rfl
@[simp] theorem State.modReg_clk (s : State) (n : Core) (f : CoreRegs → CoreRegs) : (s.modReg n f).clk = s.clk := rfl
@[simp] theorem State.modReg_awl (s : State) (n : Core) (f : CoreRegs → CoreRegs) : (s.modReg n f).awl = s.awl := rfl
@[simp] theorem State.modReg_freeCtr (s : State) (n : Core) (f : CoreRegs → CoreRegs) : (s.modReg n f).freeCtr = s.freeCtr := rfl
@[simp] theorem State.modReg_pending (s : State) (n : Core) (f : CoreRegs → CoreRegs) : (s.modReg n f).pending = s.pending := rfl

/-! State.modStack -/

@[simp] theorem State.modStack_cores (s : State) (k : StackId) (f : Stack → Stack) : (s.modStack k f).cores = s.cores := rfl
@[simp] theorem State.modStack_welt (s : State) (k : StackId) (f : Stack → Stack) : (s.modStack k f).welt = s.welt := rfl
@[simp] theorem State.modStack_ins (s : State) (k : StackId) (f : Stack → Stack) : (s.modStack k f).ins = s.ins := rfl
@[simp] theorem State.modStack_fab (s : State) (k : StackId) (f : Stack → Stack) : (s.modStack k f).fab = s.fab := rfl
@[simp] theorem State.modStack_coll (s : State) (k : StackId) (f : Stack → Stack) : (s.modStack k f).coll = s.coll := rfl
@[simp] theorem State.modStack_step (s : State) (k : StackId) (f : Stack → Stack) : (s.modStack k f).step = s.step := rfl
@[simp] theorem State.modStack_ing (s : State) (k : StackId) (f : Stack → Stack) : (s.modStack k f).ing = s.ing := rfl
@[simp] theorem State.modStack_ctx (s : State) (k : StackId) (f : Stack → Stack) : (s.modStack k f).ctx = s.ctx := rfl
@[simp] theorem State.modStack_cbl (s : State) (k : StackId) (f : Stack → Stack) : (s.modStack k f).cbl = s.cbl := rfl
@[simp] theorem State.modStack_clk (s : State) (k : StackId) (f : Stack → Stack) : (s.modStack k f).clk = s.clk := rfl
@[simp] theorem State.modStack_awl (s : State) (k : StackId) (f : Stack → Stack) : (s.modStack k f).awl = s.awl := rfl
@[simp] theorem State.modStack_freeCtr (s : State) (k : StackId) (f : Stack → Stack) : (s.modStack k f).freeCtr = s.freeCtr := rfl
@[simp] theorem State.modStack_pending (s : State) (k : StackId) (f : Stack → Stack) : (s.modStack k f).pending = s.pending := rfl

/-! State.modPort -/

@[simp] theorem State.modPort_cores (s : State) (p : Port) (f : FabPort → FabPort) : (s.modPort p f).cores = s.cores := rfl
@[simp] theorem State.modPort_welt (s : State) (p : Port) (f : FabPort → FabPort) : (s.modPort p f).welt = s.welt := rfl
@[simp] theorem State.modPort_stack (s : State) (p : Port) (f : FabPort → FabPort) : (s.modPort p f).stack = s.stack := rfl
@[simp] theorem State.modPort_ins (s : State) (p : Port) (f : FabPort → FabPort) : (s.modPort p f).ins = s.ins := rfl
@[simp] theorem State.modPort_coll (s : State) (p : Port) (f : FabPort → FabPort) : (s.modPort p f).coll = s.coll := rfl
@[simp] theorem State.modPort_step (s : State) (p : Port) (f : FabPort → FabPort) : (s.modPort p f).step = s.step := rfl
@[simp] theorem State.modPort_ing (s : State) (p : Port) (f : FabPort → FabPort) : (s.modPort p f).ing = s.ing := rfl
@[simp] theorem State.modPort_ctx (s : State) (p : Port) (f : FabPort → FabPort) : (s.modPort p f).ctx = s.ctx := rfl
@[simp] theorem State.modPort_cbl (s : State) (p : Port) (f : FabPort → FabPort) : (s.modPort p f).cbl = s.cbl := rfl
@[simp] theorem State.modPort_clk (s : State) (p : Port) (f : FabPort → FabPort) : (s.modPort p f).clk = s.clk := rfl
@[simp] theorem State.modPort_awl (s : State) (p : Port) (f : FabPort → FabPort) : (s.modPort p f).awl = s.awl := rfl
@[simp] theorem State.modPort_freeCtr (s : State) (p : Port) (f : FabPort → FabPort) : (s.modPort p f).freeCtr = s.freeCtr := rfl
@[simp] theorem State.modPort_pending (s : State) (p : Port) (f : FabPort → FabPort) : (s.modPort p f).pending = s.pending := rfl

/-! State.modComm -/

@[simp] theorem State.modComm_cores (s : State) (c : Comm) (f : CommSt → CommSt) : (s.modComm c f).cores = s.cores := rfl
@[simp] theorem State.modComm_welt (s : State) (c : Comm) (f : CommSt → CommSt) : (s.modComm c f).welt = s.welt := rfl
@[simp] theorem State.modComm_stack (s : State) (c : Comm) (f : CommSt → CommSt) : (s.modComm c f).stack = s.stack := rfl
@[simp] theorem State.modComm_ins (s : State) (c : Comm) (f : CommSt → CommSt) : (s.modComm c f).ins = s.ins := rfl
@[simp] theorem State.modComm_fab (s : State) (c : Comm) (f : CommSt → CommSt) : (s.modComm c f).fab = s.fab := rfl
@[simp] theorem State.modComm_step (s : State) (c : Comm) (f : CommSt → CommSt) : (s.modComm c f).step = s.step := rfl
@[simp] theorem State.modComm_ing (s : State) (c : Comm) (f : CommSt → CommSt) : (s.modComm c f).ing = s.ing := rfl
@[simp] theorem State.modComm_ctx (s : State) (c : Comm) (f : CommSt → CommSt) : (s.modComm c f).ctx = s.ctx := rfl
@[simp] theorem State.modComm_cbl (s : State) (c : Comm) (f : CommSt → CommSt) : (s.modComm c f).cbl = s.cbl := rfl
@[simp] theorem State.modComm_clk (s : State) (c : Comm) (f : CommSt → CommSt) : (s.modComm c f).clk = s.clk := rfl
@[simp] theorem State.modComm_awl (s : State) (c : Comm) (f : CommSt → CommSt) : (s.modComm c f).awl = s.awl := rfl
@[simp] theorem State.modComm_freeCtr (s : State) (c : Comm) (f : CommSt → CommSt) : (s.modComm c f).freeCtr = s.freeCtr := rfl
@[simp] theorem State.modComm_pending (s : State) (c : Comm) (f : CommSt → CommSt) : (s.modComm c f).pending = s.pending := rfl

/-! State.irq -/

@[simp] theorem State.irq_cores (s : State) (k : Nat) : (s.irq k).cores = s.cores := rfl
@[simp] theorem State.irq_welt (s : State) (k : Nat) : (s.irq k).welt = s.welt := rfl
@[simp] theorem State.irq_stack (s : State) (k : Nat) : (s.irq k).stack = s.stack := rfl
@[simp] theorem State.irq_ins (s : State) (k : Nat) : (s.irq k).ins = s.ins := rfl
@[simp] theorem State.irq_fab (s : State) (k : Nat) : (s.irq k).fab = s.fab := rfl
@[simp] theorem State.irq_coll (s : State) (k : Nat) : (s.irq k).coll = s.coll := rfl
@[simp] theorem State.irq_step (s : State) (k : Nat) : (s.irq k).step = s.step := rfl
@[simp] theorem State.irq_ing (s : State) (k : Nat) : (s.irq k).ing = s.ing := rfl
@[simp] theorem State.irq_cbl (s : State) (k : Nat) : (s.irq k).cbl = s.cbl := rfl
@[simp] theorem State.irq_clk (s : State) (k : Nat) : (s.irq k).clk = s.clk := rfl
@[simp] theorem State.irq_awl (s : State) (k : Nat) : (s.irq k).awl = s.awl := rfl
@[simp] theorem State.irq_freeCtr (s : State) (k : Nat) : (s.irq k).freeCtr = s.freeCtr := rfl
@[simp] theorem State.irq_pending (s : State) (k : Nat) : (s.irq k).pending = s.pending := rfl

/-! State.health -/

@[simp] theorem State.health_cores (s : State) (src cls dev : Nat) : (s.health src cls dev).cores = s.cores := rfl
@[simp] theorem State.health_welt (s : State) (src cls dev : Nat) : (s.health src cls dev).welt = s.welt := rfl
@[simp] theorem State.health_stack (s : State) (src cls dev : Nat) : (s.health src cls dev).stack = s.stack := rfl
@[simp] theorem State.health_ins (s : State) (src cls dev : Nat) : (s.health src cls dev).ins = s.ins := rfl
@[simp] theorem State.health_fab (s : State) (src cls dev : Nat) : (s.health src cls dev).fab = s.fab := rfl
@[simp] theorem State.health_coll (s : State) (src cls dev : Nat) : (s.health src cls dev).coll = s.coll := rfl
@[simp] theorem State.health_step (s : State) (src cls dev : Nat) : (s.health src cls dev).step = s.step := rfl
@[simp] theorem State.health_ing (s : State) (src cls dev : Nat) : (s.health src cls dev).ing = s.ing := rfl
@[simp] theorem State.health_ctx (s : State) (src cls dev : Nat) : (s.health src cls dev).ctx = s.ctx := rfl
@[simp] theorem State.health_cbl (s : State) (src cls dev : Nat) : (s.health src cls dev).cbl = s.cbl := rfl
@[simp] theorem State.health_clk (s : State) (src cls dev : Nat) : (s.health src cls dev).clk = s.clk := rfl
@[simp] theorem State.health_freeCtr (s : State) (src cls dev : Nat) : (s.health src cls dev).freeCtr = s.freeCtr := rfl
@[simp] theorem State.health_pending (s : State) (src cls dev : Nat) : (s.health src cls dev).pending = s.pending := rfl

/-! State.giveBlock -/

@[simp] theorem State.giveBlock_cores (s : State) (c : WeltClass) (x : Nat) (b : Bool) : (s.giveBlock c x b).cores = s.cores := rfl
@[simp] theorem State.giveBlock_stack (s : State) (c : WeltClass) (x : Nat) (b : Bool) : (s.giveBlock c x b).stack = s.stack := rfl
@[simp] theorem State.giveBlock_ins (s : State) (c : WeltClass) (x : Nat) (b : Bool) : (s.giveBlock c x b).ins = s.ins := rfl
@[simp] theorem State.giveBlock_fab (s : State) (c : WeltClass) (x : Nat) (b : Bool) : (s.giveBlock c x b).fab = s.fab := rfl
@[simp] theorem State.giveBlock_coll (s : State) (c : WeltClass) (x : Nat) (b : Bool) : (s.giveBlock c x b).coll = s.coll := rfl
@[simp] theorem State.giveBlock_step (s : State) (c : WeltClass) (x : Nat) (b : Bool) : (s.giveBlock c x b).step = s.step := rfl
@[simp] theorem State.giveBlock_ing (s : State) (c : WeltClass) (x : Nat) (b : Bool) : (s.giveBlock c x b).ing = s.ing := rfl
@[simp] theorem State.giveBlock_ctx (s : State) (c : WeltClass) (x : Nat) (b : Bool) : (s.giveBlock c x b).ctx = s.ctx := rfl
@[simp] theorem State.giveBlock_cbl (s : State) (c : WeltClass) (x : Nat) (b : Bool) : (s.giveBlock c x b).cbl = s.cbl := rfl
@[simp] theorem State.giveBlock_clk (s : State) (c : WeltClass) (x : Nat) (b : Bool) : (s.giveBlock c x b).clk = s.clk := rfl
@[simp] theorem State.giveBlock_awl (s : State) (c : WeltClass) (x : Nat) (b : Bool) : (s.giveBlock c x b).awl = s.awl := rfl
@[simp] theorem State.giveBlock_freeCtr (s : State) (c : WeltClass) (x : Nat) (b : Bool) : (s.giveBlock c x b).freeCtr = s.freeCtr := rfl
@[simp] theorem State.giveBlock_pending (s : State) (c : WeltClass) (x : Nat) (b : Bool) : (s.giveBlock c x b).pending = s.pending := rfl

/-! State.putActive -/

@[simp] theorem State.putActive_cores (s : State) (a : Active) : (s.putActive a).cores = s.cores := rfl
@[simp] theorem State.putActive_welt (s : State) (a : Active) : (s.putActive a).welt = s.welt := rfl
@[simp] theorem State.putActive_stack (s : State) (a : Active) : (s.putActive a).stack = s.stack := rfl
@[simp] theorem State.putActive_ins (s : State) (a : Active) : (s.putActive a).ins = s.ins := rfl
@[simp] theorem State.putActive_fab (s : State) (a : Active) : (s.putActive a).fab = s.fab := rfl
@[simp] theorem State.putActive_step (s : State) (a : Active) : (s.putActive a).step = s.step := rfl
@[simp] theorem State.putActive_ing (s : State) (a : Active) : (s.putActive a).ing = s.ing := rfl
@[simp] theorem State.putActive_ctx (s : State) (a : Active) : (s.putActive a).ctx = s.ctx := rfl
@[simp] theorem State.putActive_cbl (s : State) (a : Active) : (s.putActive a).cbl = s.cbl := rfl
@[simp] theorem State.putActive_clk (s : State) (a : Active) : (s.putActive a).clk = s.clk := rfl
@[simp] theorem State.putActive_awl (s : State) (a : Active) : (s.putActive a).awl = s.awl := rfl
@[simp] theorem State.putActive_freeCtr (s : State) (a : Active) : (s.putActive a).freeCtr = s.freeCtr := rfl
@[simp] theorem State.putActive_pending (s : State) (a : Active) : (s.putActive a).pending = s.pending := rfl

/-! State.countDrop -/

@[simp] theorem State.countDrop_cores (s : State) (p : Port) : (s.countDrop p).cores = s.cores := rfl
@[simp] theorem State.countDrop_welt (s : State) (p : Port) : (s.countDrop p).welt = s.welt := rfl
@[simp] theorem State.countDrop_stack (s : State) (p : Port) : (s.countDrop p).stack = s.stack := rfl
@[simp] theorem State.countDrop_ins (s : State) (p : Port) : (s.countDrop p).ins = s.ins := rfl
@[simp] theorem State.countDrop_coll (s : State) (p : Port) : (s.countDrop p).coll = s.coll := rfl
@[simp] theorem State.countDrop_step (s : State) (p : Port) : (s.countDrop p).step = s.step := rfl
@[simp] theorem State.countDrop_ing (s : State) (p : Port) : (s.countDrop p).ing = s.ing := rfl
@[simp] theorem State.countDrop_ctx (s : State) (p : Port) : (s.countDrop p).ctx = s.ctx := rfl
@[simp] theorem State.countDrop_cbl (s : State) (p : Port) : (s.countDrop p).cbl = s.cbl := rfl
@[simp] theorem State.countDrop_clk (s : State) (p : Port) : (s.countDrop p).clk = s.clk := rfl
@[simp] theorem State.countDrop_awl (s : State) (p : Port) : (s.countDrop p).awl = s.awl := rfl
@[simp] theorem State.countDrop_freeCtr (s : State) (p : Port) : (s.countDrop p).freeCtr = s.freeCtr := rfl
@[simp] theorem State.countDrop_pending (s : State) (p : Port) : (s.countDrop p).pending = s.pending := rfl

/-! State.resume -/

@[simp] theorem State.resume_welt (s : State) (n : Core) (f : CoreSt → CoreSt) : (s.resume n f).welt = s.welt := rfl
@[simp] theorem State.resume_stack (s : State) (n : Core) (f : CoreSt → CoreSt) : (s.resume n f).stack = s.stack := rfl
@[simp] theorem State.resume_ins (s : State) (n : Core) (f : CoreSt → CoreSt) : (s.resume n f).ins = s.ins := rfl
@[simp] theorem State.resume_fab (s : State) (n : Core) (f : CoreSt → CoreSt) : (s.resume n f).fab = s.fab := rfl
@[simp] theorem State.resume_coll (s : State) (n : Core) (f : CoreSt → CoreSt) : (s.resume n f).coll = s.coll := rfl
@[simp] theorem State.resume_step (s : State) (n : Core) (f : CoreSt → CoreSt) : (s.resume n f).step = s.step := rfl
@[simp] theorem State.resume_ing (s : State) (n : Core) (f : CoreSt → CoreSt) : (s.resume n f).ing = s.ing := rfl
@[simp] theorem State.resume_ctx (s : State) (n : Core) (f : CoreSt → CoreSt) : (s.resume n f).ctx = s.ctx := rfl
@[simp] theorem State.resume_cbl (s : State) (n : Core) (f : CoreSt → CoreSt) : (s.resume n f).cbl = s.cbl := rfl
@[simp] theorem State.resume_clk (s : State) (n : Core) (f : CoreSt → CoreSt) : (s.resume n f).clk = s.clk := rfl
@[simp] theorem State.resume_awl (s : State) (n : Core) (f : CoreSt → CoreSt) : (s.resume n f).awl = s.awl := rfl
@[simp] theorem State.resume_freeCtr (s : State) (n : Core) (f : CoreSt → CoreSt) : (s.resume n f).freeCtr = s.freeCtr := rfl
@[simp] theorem State.resume_pending (s : State) (n : Core) (f : CoreSt → CoreSt) : (s.resume n f).pending = s.pending := rfl

/-! State.newAttempt -/

@[simp] theorem State.newAttempt_welt (s : State) (a : Byte) (b : Bool) : (s.newAttempt a b).welt = s.welt := rfl
@[simp] theorem State.newAttempt_stack (s : State) (a : Byte) (b : Bool) : (s.newAttempt a b).stack = s.stack := rfl
@[simp] theorem State.newAttempt_ins (s : State) (a : Byte) (b : Bool) : (s.newAttempt a b).ins = s.ins := rfl
@[simp] theorem State.newAttempt_fab (s : State) (a : Byte) (b : Bool) : (s.newAttempt a b).fab = s.fab := rfl
@[simp] theorem State.newAttempt_coll (s : State) (a : Byte) (b : Bool) : (s.newAttempt a b).coll = s.coll := rfl
@[simp] theorem State.newAttempt_ing (s : State) (a : Byte) (b : Bool) : (s.newAttempt a b).ing = s.ing := rfl
@[simp] theorem State.newAttempt_ctx (s : State) (a : Byte) (b : Bool) : (s.newAttempt a b).ctx = s.ctx := rfl
@[simp] theorem State.newAttempt_cbl (s : State) (a : Byte) (b : Bool) : (s.newAttempt a b).cbl = s.cbl := rfl
@[simp] theorem State.newAttempt_clk (s : State) (a : Byte) (b : Bool) : (s.newAttempt a b).clk = s.clk := rfl
@[simp] theorem State.newAttempt_awl (s : State) (a : Byte) (b : Bool) : (s.newAttempt a b).awl = s.awl := rfl
@[simp] theorem State.newAttempt_freeCtr (s : State) (a : Byte) (b : Bool) : (s.newAttempt a b).freeCtr = s.freeCtr := rfl
@[simp] theorem State.newAttempt_pending (s : State) (a : Byte) (b : Bool) : (s.newAttempt a b).pending = s.pending := rfl

/-! State.modStream -/

@[simp] theorem State.modStream_welt (s : State) (n : Core) (t : Fin 16) (f : Stream → Stream) : (s.modStream n t f).welt = s.welt := rfl
@[simp] theorem State.modStream_stack (s : State) (n : Core) (t : Fin 16) (f : Stream → Stream) : (s.modStream n t f).stack = s.stack := rfl
@[simp] theorem State.modStream_ins (s : State) (n : Core) (t : Fin 16) (f : Stream → Stream) : (s.modStream n t f).ins = s.ins := rfl
@[simp] theorem State.modStream_fab (s : State) (n : Core) (t : Fin 16) (f : Stream → Stream) : (s.modStream n t f).fab = s.fab := rfl
@[simp] theorem State.modStream_coll (s : State) (n : Core) (t : Fin 16) (f : Stream → Stream) : (s.modStream n t f).coll = s.coll := rfl
@[simp] theorem State.modStream_step (s : State) (n : Core) (t : Fin 16) (f : Stream → Stream) : (s.modStream n t f).step = s.step := rfl
@[simp] theorem State.modStream_ing (s : State) (n : Core) (t : Fin 16) (f : Stream → Stream) : (s.modStream n t f).ing = s.ing := rfl
@[simp] theorem State.modStream_ctx (s : State) (n : Core) (t : Fin 16) (f : Stream → Stream) : (s.modStream n t f).ctx = s.ctx := rfl
@[simp] theorem State.modStream_cbl (s : State) (n : Core) (t : Fin 16) (f : Stream → Stream) : (s.modStream n t f).cbl = s.cbl := rfl
@[simp] theorem State.modStream_clk (s : State) (n : Core) (t : Fin 16) (f : Stream → Stream) : (s.modStream n t f).clk = s.clk := rfl
@[simp] theorem State.modStream_awl (s : State) (n : Core) (t : Fin 16) (f : Stream → Stream) : (s.modStream n t f).awl = s.awl := rfl
@[simp] theorem State.modStream_freeCtr (s : State) (n : Core) (t : Fin 16) (f : Stream → Stream) : (s.modStream n t f).freeCtr = s.freeCtr := rfl
@[simp] theorem State.modStream_pending (s : State) (n : Core) (t : Fin 16) (f : Stream → Stream) : (s.modStream n t f).pending = s.pending := rfl

/-! State.fresh -/

@[simp] theorem State.fresh_cores (s : State) : s.fresh.2.cores = s.cores := rfl
@[simp] theorem State.fresh_welt (s : State) : s.fresh.2.welt = s.welt := rfl
@[simp] theorem State.fresh_stack (s : State) : s.fresh.2.stack = s.stack := rfl
@[simp] theorem State.fresh_ins (s : State) : s.fresh.2.ins = s.ins := rfl
@[simp] theorem State.fresh_fab (s : State) : s.fresh.2.fab = s.fab := rfl
@[simp] theorem State.fresh_coll (s : State) : s.fresh.2.coll = s.coll := rfl
@[simp] theorem State.fresh_step (s : State) : s.fresh.2.step = s.step := rfl
@[simp] theorem State.fresh_ing (s : State) : s.fresh.2.ing = s.ing := rfl
@[simp] theorem State.fresh_ctx (s : State) : s.fresh.2.ctx = s.ctx := rfl
@[simp] theorem State.fresh_cbl (s : State) : s.fresh.2.cbl = s.cbl := rfl
@[simp] theorem State.fresh_clk (s : State) : s.fresh.2.clk = s.clk := rfl
@[simp] theorem State.fresh_awl (s : State) : s.fresh.2.awl = s.awl := rfl
@[simp] theorem State.fresh_pending (s : State) : s.fresh.2.pending = s.pending := rfl
@[simp] theorem State.fresh_freeCtr (s : State) : s.fresh.2.freeCtr = s.freeCtr + 1 := rfl

/-! ### Vectors -/

@[simp] theorem vput_get_same {α : Type} {n : Nat} (v : Vector α n) (i : Fin n) (x : α) : (vput v i x)[i.val] = x := by
  simp [vput]

theorem vput_get_ne {α : Type} {n : Nat} (v : Vector α n) (i j : Fin n) (x : α) (h : j ≠ i) :
    (vput v i x)[j.val] = v[j.val] := by
  have hne : i.val ≠ j.val := fun e => h (Fin.ext e.symm)
  simp [vput, hne]

@[simp] theorem vmod_get_same {α : Type} {n : Nat} (v : Vector α n) (i : Fin n) (f : α → α) :
    (vmod v i f)[i.val] = f v[i.val] := by
  simp [vmod]

theorem vmod_get_ne {α : Type} {n : Nat} (v : Vector α n) (i j : Fin n) (f : α → α) (h : j ≠ i) :
    (vmod v i f)[j.val] = v[j.val] := by
  simp [vmod, vput_get_ne _ _ _ _ h]

theorem vgetD_vputD {α : Type} {n : Nat} (v : Vector α n) (i j : Nat) (x d : α) (hi : i < n) :
    vgetD (vputD v i x) j d = if j = i then x else vgetD v j d := by
  by_cases hj : j < n
  · by_cases e : j = i
    · subst e; simp [vgetD, vputD, hj]
    · have : i ≠ j := fun h => e h.symm
      simp [vgetD, vputD, hi, hj, e, this]
  · have : j ≠ i := fun h => hj (h ▸ hi)
    simp [vgetD, hj, this]

/-! ### Cores, stacks and ports -/

@[simp] theorem State.modCore_same (s : State) (n : Core) (f : CoreSt → CoreSt) : (s.modCore n f).core n = f (s.core n) := by
  simp [State.modCore, State.core]

theorem State.modCore_ne (s : State) (n m : Core) (f : CoreSt → CoreSt) (h : m ≠ n) :
    (s.modCore n f).core m = s.core m := by
  simp [State.modCore, State.core, vmod_get_ne _ _ _ _ h]

@[simp] theorem State.modArch_same (s : State) (n : Core) (f : CoreArch → CoreArch) :
    (s.modArch n f).core n = { s.core n with arch := f (s.core n).arch } := by
  simp [State.modArch]

@[simp] theorem State.modReg_same (s : State) (n : Core) (f : CoreRegs → CoreRegs) :
    (s.modReg n f).core n = { s.core n with reg := f (s.core n).reg } := by
  simp [State.modReg]

@[simp] theorem State.modStack_same (s : State) (k : StackId) (f : Stack → Stack) :
    (s.modStack k f).stack[k] = f s.stack[k] := by
  simp [State.modStack]

theorem State.modStack_ne (s : State) (k j : StackId) (f : Stack → Stack) (h : j ≠ k) :
    (s.modStack k f).stack[j] = s.stack[j] := by
  simp [State.modStack, vmod_get_ne _ _ _ _ h]

@[simp] theorem State.modPort_same (s : State) (p : Port) (f : FabPort → FabPort) :
    (s.modPort p f).fab.port[p] = f s.fab.port[p] := by
  simp [State.modPort]

theorem State.modPort_ne (s : State) (p q : Port) (f : FabPort → FabPort) (h : q ≠ p) :
    (s.modPort p f).fab.port[q] = s.fab.port[q] := by
  simp [State.modPort, vmod_get_ne _ _ _ _ h]

/-! ### Scalars, predicates, semaphores (R52) -/

theorem CoreArch.sreg_setS (a : CoreArch) (i j : Nat) (v : Word) (hi : i < 64) :
    (a.setS i v).sreg j = if j = i ∧ i ≠ 0 then v else a.sreg j := by
  unfold CoreArch.sreg CoreArch.setS
  by_cases h0 : i = 0
  · simp [h0]
  · by_cases hj : j = 0
    · subst hj; simp [h0]; intro h; exact absurd h.symm h0
    · simp [h0, hj, vgetD_vputD _ _ _ _ _ hi]

theorem CoreArch.setS_rest (a : CoreArch) (i : Nat) (v : Word) : a.setS i v = { a with s := (a.setS i v).s } := by
  unfold CoreArch.setS; split <;> rfl

theorem CoreArch.pred_setP (a : CoreArch) (i j : Nat) (v : Bool) (hi : i < 8) :
    (a.setP i v).pred j = if j = i ∧ i ≠ 0 then v else a.pred j := by
  unfold CoreArch.pred CoreArch.setP
  by_cases h0 : i = 0
  · simp [h0]
  · by_cases hj : j = 0
    · subst hj
      have : (0 : Nat) ≠ i := fun h => h0 h.symm
      simp [this]
    · simp [h0, hj, vgetD_vputD _ _ _ _ _ hi]

theorem CoreArch.setP_rest (a : CoreArch) (i : Nat) (v : Bool) : a.setP i v = { a with p := (a.setP i v).p } := by
  unfold CoreArch.setP; split <;> rfl

theorem CoreArch.semOf_setSem (a : CoreArch) (i j : Nat) (x : Sem) (hi : i < 64) :
    (a.setSem i x).semOf j = if j = i then x else a.semOf j := by
  simp [CoreArch.semOf, CoreArch.setSem, vgetD_vputD _ _ _ _ _ hi]

end Sys2Proof.Machine
end

