-- ==== Sys2Proof/Laws/Core.lean ====
section
/-! SUPPORT. What the shared operations of a core do: issue, its checks, going on, and the core fault. -/

namespace Sys2Proof.Machine

/-! ### Folding -/

theorem foldl_keeps {α β : Type} (P : α → Prop) (f : α → β → α) (h : ∀ a b, P a → P (f a b)) (l : List β) (a : α) (ha : P a) :
    P (l.foldl f a) := by
  induction l generalizing a with
  | nil => exact ha
  | cons b r ih => exact ih (f a b) (h a b ha)

theorem foldl_same {α β γ : Type} (g : α → γ) (f : α → β → α) (h : ∀ a b, g (f a b) = g a) (l : List β) (a : α) :
    g (l.foldl f a) = g a :=
  foldl_keeps (fun x => g x = g a) f (fun x b hx => (h x b).trans hx) l a rfl

theorem forN_keeps {σ : Type} (P : σ → Prop) (n : Nat) (f : Nat → σ → σ) (h : ∀ i a, P a → P (f i a)) (a : σ) (ha : P a) :
    P (forN n f a) := foldl_keeps P (fun a i => f i a) (fun a i ha => h i a ha) _ a ha

theorem forN_same {σ γ : Type} (g : σ → γ) (n : Nat) (f : Nat → σ → σ) (h : ∀ i a, g (f i a) = g a) (a : σ) :
    g (forN n f a) = g a := foldl_same g (fun a i => f i a) (fun a i => h i a) _ a

theorem bitOf_eq {k : Nat} (w : BitVec k) (i : Nat) : bitOf w i = w.getLsbD i := by
  simp only [bitOf, BitVec.getLsbD, Nat.testBit_eq_decide_div_mod_eq]
  rfl

/-! ### What leaves the cores as they are -/

@[simp] theorem State.pushRec_cores (s : State) (r : EvRec) : (s.pushRec r).cores = s.cores := by
  unfold State.pushRec; dsimp only; split <;> rfl

@[simp] theorem State.event_cores (s : State) (src low sev : Nat) (st : Status) (cls dev : Nat) (d : Word) :
    (s.event src low sev st cls dev d).cores = s.cores := by simp [State.event]

@[simp] theorem State.driveFreeze_cores (s : State) (c n : Nat) : (s.driveFreeze c n).cores = s.cores := by
  unfold State.driveFreeze; split <;> rfl

@[simp] theorem State.send_cores (s : State) (k : Packet) : (s.send k).cores = s.cores := by
  unfold State.send; split
  · rfl
  · split
    · rfl
    · split <;> simp

@[simp] theorem State.sendAll_cores (s : State) (ks : List Packet) : (s.sendAll ks).cores = s.cores :=
  foldl_same State.cores State.send State.send_cores ks s

@[simp] theorem State.countFail_cores (s : State) (st : Status) : (s.countFail st).cores = s.cores := by
  unfold State.countFail; split <;> rfl

@[simp] theorem State.announceFail_cores (s : State) (a : Active) (st : Status) : (s.announceFail a st).cores = s.cores := by
  simp [State.announceFail]

@[simp] theorem State.payDebt_cores (s : State) (c : Comm) (x : Coord) (ph dir : Bool) :
    (s.payDebt c x ph dir).cores = s.cores := by
  unfold State.payDebt; dsimp only; split <;> simp

@[simp] theorem State.owe_cores (s : State) (c : Comm) (x : Coord) (ph dir m : Bool) (r : BitVec 2) (q : BitVec 16) :
    (s.owe c x ph dir m r q).cores = s.cores := by
  unfold State.owe; dsimp only; split <;> simp

@[simp] theorem State.oweChunk_cores (s : State) (a : Active) (g : Got) : (s.oweChunk a g).cores = s.cores := by
  simp [State.oweChunk]

@[simp] theorem State.noteEnded_cores (s : State) (a : Active) : (s.noteEnded a).cores = s.cores := by
  unfold State.noteEnded; split <;> rfl

@[simp] theorem State.digestColl_cores (s : State) (a : Active) : (s.digestColl a).cores = s.cores := by
  unfold State.digestColl; split
  · rfl
  · split
    · split <;> simp
    · rfl

@[simp] theorem State.ctrlPhases_cores (s : State) (a : Active) (xs ys : List GroupAxis) :
    (s.ctrlPhases a xs ys).1.cores = s.cores := by
  induction xs generalizing s a ys with
  | nil => rfl
  | cons x r ih =>
    simp only [State.ctrlPhases]
    split
    · rw [ih]; simp
    · simp

@[simp] theorem State.giveDecision_cores (s : State) (b : Bool) : (s.giveDecision b).cores = s.cores := rfl

@[simp] theorem State.writeReplay_cores (s : State) : s.writeReplay.cores = s.cores := by
  delta State.writeReplay; with_reducible rfl

@[simp] theorem State.enterPhase_cores (s : State) (i : Nat) : (s.enterPhase i).cores = s.cores := by
  simp [State.enterPhase]

/-! ### What the end of a core's work keeps of a core -/

/-- Of a core k, k' keeps the run state, the fault's cause and address, scalars and predicates, the end of a hold and
core_fault. -/
def CoreSt.Kept (k k' : CoreSt) : Prop :=
  k'.reg.run = k.reg.run ∧ (k.hold = .none → k'.hold = .none) ∧ k'.reg.faultCause = k.reg.faultCause ∧
    k'.reg.faultPc = k.reg.faultPc ∧ (bitOf k.reg.health 5 = true → bitOf k'.reg.health 5 = true) ∧
    k'.arch.s = k.arch.s ∧ k'.arch.p = k.arch.p

/-- Core n of t keeps what Kept names of core n of s0. -/
def Kept (n : Core) (s0 t : State) : Prop := (s0.core n).Kept (t.core n)

/-- A change of a core that keeps what Kept names. -/
def Keeps (f : CoreSt → CoreSt) : Prop := ∀ k : CoreSt, k.Kept (f k)

/-- A change of the program-visible state that keeps scalars and predicates. -/
def KeepsRegs (f : CoreArch → CoreArch) : Prop := ∀ a, (f a).s = a.s ∧ (f a).p = a.p

theorem CoreSt.Kept.refl (k : CoreSt) : k.Kept k := ⟨rfl, id, rfl, rfl, id, rfl, rfl⟩

theorem CoreSt.Kept.trans {k l m : CoreSt} (h : k.Kept l) (g : l.Kept m) : k.Kept m :=
  ⟨g.1.trans h.1, g.2.1 ∘ h.2.1, g.2.2.1.trans h.2.2.1, g.2.2.2.1.trans h.2.2.2.1, g.2.2.2.2.1 ∘ h.2.2.2.2.1,
    g.2.2.2.2.2.1.trans h.2.2.2.2.2.1, g.2.2.2.2.2.2.trans h.2.2.2.2.2.2⟩

section
variable {n : Core} {s0 s : State}

theorem Kept.refl (n : Core) (s : State) : Kept n s s := CoreSt.Kept.refl _

theorem Kept.of_core {t : State} (e : t.core n = s.core n) (h : Kept n s0 s) : Kept n s0 t := by
  simpa [Kept, e] using h

theorem Kept.of_cores {t : State} (e : t.cores = s.cores) (h : Kept n s0 s) : Kept n s0 t :=
  h.of_core (by simp [State.core, e])

theorem Kept.modCore (m : Core) {f : CoreSt → CoreSt} (hf : Keeps f) (h : Kept n s0 s) : Kept n s0 (s.modCore m f) := by
  by_cases e : m = n
  · subst e
    simp only [Kept, State.modCore_same]
    exact CoreSt.Kept.trans h (hf _)
  · exact h.of_core (State.modCore_ne s m n f (fun q => e q.symm))

theorem Kept.modArch (m : Core) {f : CoreArch → CoreArch} (hf : KeepsRegs f) (h : Kept n s0 s) :
    Kept n s0 (s.modArch m f) :=
  h.modCore m fun k => ⟨rfl, id, rfl, rfl, id, (hf k.arch).1, (hf k.arch).2⟩

/-- A change of a core's queues, region and engine state only. -/
theorem Keeps.of_eq {f : CoreSt → CoreSt} (h : ∀ k, (f k).reg = k.reg ∧ (f k).hold = k.hold ∧ (f k).arch = k.arch) : Keeps f := by
  intro k
  obtain ⟨a, b, c⟩ := h k
  exact ⟨by rw [a], fun e => b.trans e, by rw [a], by rw [a], fun e => by rw [a]; exact e, by rw [c], by rw [c]⟩

theorem CoreArch.releaseSide_keeps (e : QEntry) (st : Status) : KeepsRegs fun k => k.releaseSide e st := by
  intro a; unfold CoreArch.releaseSide; dsimp only; split <;> exact ⟨rfl, rfl⟩

theorem CoreSt.setFlags_keeps (f : Byte) : Keeps fun k => k.setFlags f := fun k =>
  ⟨rfl, id, rfl, rfl, fun h => by rw [bitOf_eq] at *; simp [CoreSt.setFlags, h], rfl, rfl⟩

theorem CoreSt.note_keeps (st : Status) : Keeps fun k => k.note st := by
  intro k
  have h := CoreSt.setFlags_keeps st.flag k
  unfold CoreSt.note
  dsimp only at h ⊢
  split
  · exact h
  · split <;> exact h

theorem CoreSt.complete_keeps (e : QEntry) (st : Status) : Keeps fun k => (k.complete e st).1 := by
  intro k
  obtain ⟨a, b, d, f, g, i, j⟩ := CoreSt.note_keeps st k
  unfold CoreSt.complete CoreSt.signal
  dsimp only
  split <;> split <;> exact ⟨a, b, d, f, g, i, j⟩

theorem CoreSt.overflowFlag_keeps (b : Bool) : Keeps fun k => k.overflowFlag b := by
  intro k; unfold CoreSt.overflowFlag; dsimp only; split
  · exact CoreSt.setFlags_keeps 2 k
  · exact CoreSt.Kept.refl k

theorem CoreSt.setQueue_keeps (q : QueueId) (f : CoreSt → Queue) : Keeps fun k => k.setQueue q (f k) :=
  Keeps.of_eq fun k => by cases q <;> exact ⟨rfl, rfl, rfl⟩

theorem Kept.modRun (m : Core) (q : QueueId) (i : Nat) (f : Progress → Progress) (h : Kept n s0 s) :
    Kept n s0 (s.modRun m q i f) := h.modCore m (CoreSt.setQueue_keeps q _)

theorem Kept.endRun (m : Core) (q : QueueId) (i : Nat) (st : Status) (h : Kept n s0 s) :
    Kept n s0 (s.endRun m q i st) := h.modCore m (CoreSt.setQueue_keeps q _)

/-! Writes of memory and of output rings. -/

theorem Kept.writeByte (a : Nat) (b : Byte) (h : Kept n s0 s) : Kept n s0 (s.writeByte a b) := by
  unfold State.writeByte
  split
  · split
    · exact h
    · split <;> exact h.of_cores rfl
  · split
    · exact h.of_cores rfl
    · exact h.modArch _ fun a => ⟨rfl, rfl⟩
    · exact h

theorem Kept.setPoison (l : Loc) (b : Bool) (h : Kept n s0 s) : Kept n s0 (s.setPoison l b) := by
  unfold State.setPoison
  dsimp only
  split
  · exact h.of_cores rfl
  · exact h.of_cores rfl
  · exact h.modArch _ fun a => ⟨rfl, rfl⟩

theorem Kept.writeNow (cells : List (Nat × Byte)) (h : Kept n s0 s) : Kept n s0 (s.writeNow cells).1 := by
  unfold State.writeNow
  dsimp only
  refine foldl_keeps (fun x : State × Bool => Kept n s0 x.1) _ (fun a w h => ?_) _ _
    (foldl_keeps _ _ (fun s c h => h.writeByte _ _) _ _ h)
  split
  · exact h
  · split
    · exact h.setPoison _ _
    · exact h

theorem Kept.holdCells (k : StackId) (cells : List (Nat × Byte)) (h : Kept n s0 s) : Kept n s0 (s.holdCells k cells) := by
  unfold State.holdCells
  dsimp only
  split
  · exact h
  · exact h.of_cores rfl

theorem Kept.writeCells (cells : List (Nat × Byte)) (h : Kept n s0 s) : Kept n s0 (s.writeCells cells).1 := by
  unfold State.writeCells
  dsimp only
  split
  · exact h.writeNow _
  · exact Kept.of_cores (s := forN 24 (fun i t => t.holdCells (Fin.ofNat 24 i) _) _) rfl
      (forN_keeps (Kept n s0) 24 _ (fun _ _ h => h.holdCells _ _) _ (h.writeNow _))

theorem Kept.writeScratch (m : Core) (o : Nat) (bs : List Byte) (h : Kept n s0 s) : Kept n s0 (s.writeScratch m o bs).1 :=
  h.writeCells _

theorem Kept.flush (m : Core) (r i : Nat) (out : List Byte) (b : Bool) {t} (e : s.flush m r i out b = some t)
    (h : Kept n s0 s) : Kept n s0 t.1 := by
  unfold State.flush at e
  dsimp only at e
  split at e
  · cases e
    exact (h.writeScratch _ _ _).modArch _ fun a => ⟨rfl, rfl⟩
  · cases e

theorem Kept.flushAll (m : Core) (r i : Nat) (out : List Byte) (f : Nat) (h : Kept n s0 s) :
    Kept n s0 (s.flushAll m r i out f).1 := by
  induction f generalizing s out with
  | zero => exact h
  | succ f ih =>
    unfold State.flushAll
    split
    · exact h
    · next e => exact ih _ (h.flush _ _ _ _ _ e)

theorem Kept.claimTail (m : Core) (r : Nat) (out : List Byte) (h : Kept n s0 s) : Kept n s0 (s.claimTail m r out) := by
  unfold State.claimTail
  split
  · exact h
  · exact h.modArch _ fun a => ⟨rfl, rfl⟩

/-! The numerics log, heel adds and finished rows. -/

theorem Kept.logNum (r : NumRec) (h : Kept n s0 s) : Kept n s0 (s.logNum r) := h.of_cores rfl

theorem Kept.health (a b d : Nat) (h : Kept n s0 s) : Kept n s0 (s.health a b d) := h.of_cores rfl

theorem Kept.overflowAt (m : Core) (e : QEntry) (a b d g : Nat) (w : Int) (k : Nat) (h : Kept n s0 s) :
    Kept n s0 (s.overflowAt m e a b d g w k) := by
  unfold State.overflowAt
  dsimp only
  refine Kept.modCore m (Keeps.of_eq fun k => ?_) ?_
  · split <;> exact ⟨rfl, rfl, rfl⟩
  · split <;> exact h.of_cores rfl

theorem Kept.nanAt (m : Core) (e : QEntry) (a b d : Nat) (h : Kept n s0 s) : Kept n s0 (s.nanAt m e a b d) := by
  unfold State.nanAt
  extract_lets g first s1
  have h1 : Kept n s0 s1 := by unfold s1; split <;> exact h.of_cores rfl
  clear_value s1 g
  cases g
  · exact h1
  · exact h1.modCore m (Keeps.of_eq fun k => ⟨rfl, rfl, rfl⟩)

theorem Kept.ite {p : Prop} [Decidable p] {a b : State} (ha : Kept n s0 a) (hb : Kept n s0 b) : Kept n s0 (if p then a else b) := by
  split <;> assumption

theorem Kept.heelAdd (d : Dot) (m : Core) (e : QEntry) (i o : Nat) (x : ColSum) (hw : HwFault) (r : RowAcc)
    (h : Kept n s0 r.s) : Kept n s0 (d.add m e i o x hw r).s := by
  unfold Dot.add
  extract_lets b f off s1 s2 s3 c
  have h1 : Kept n s0 s1 := (h.logNum _).ite h
  have h2 : Kept n s0 s2 := (h1.overflowAt _ _ _ _ _ _ _ _).ite h1
  have h3 : Kept n s0 s3 := (h2.health _ _ _).ite h2
  clear_value s3
  split
  · exact h3.modArch _ fun a => ⟨rfl, rfl⟩
  · dsimp only
    have h4 := fun y => h3.modArch m (f := fun a => a.setHeel off b y) fun a => ⟨rfl, rfl⟩
    have h5 := fun (p : Prop) [Decidable p] y => Kept.ite (p := p) ((h4 y).overflowAt m e 1 i o 0 (d.af : Int) 1) (h4 y)
    exact ((h5 _ _).nanAt _ _ _ _ _).ite (h5 _ _)

theorem Kept.emitRow (d : Dot) (m : Core) (e : QEntry) (i ef rnd : Nat) (ys : List Nat) (h : Kept n s0 s) :
    Kept n s0 (d.emitRow m e i ef rnd ys s).1 := by
  unfold Dot.emitRow
  split
  · exact h
  · refine foldl_keeps (fun x : State × List Byte × Bool => Kept n s0 x.1) _ (fun a w h => ?_) _ _ h
    have h1 := (h.overflowAt m e 2 i w.2 0 ef 1)
    exact ((h1.ite h).nanAt _ _ _ _ _).ite (h1.ite h)

theorem Kept.addCols (m : Core) (q : QueueId) (x : RunEntry) (k : Nat) (h : Kept n s0 s) : Kept n s0 (s.addCols m q x k) := by
  unfold State.addCols
  split
  · refine Kept.modRun _ _ _ _ (foldl_keeps (fun r : RowAcc => Kept n s0 r.s) _ (fun r y h => ?_) _ _ h)
    split
    · split
      · exact h
      · exact h.heelAdd _ _ _ _ _ _ _ _
    · exact h
  · exact h

theorem CoreArch.statRow_keeps (af l m r : Nat) (ys : List Nat) : KeepsRegs fun a => a.statRow af l m r ys :=
  fun _ => ⟨rfl, rfl⟩

theorem Kept.finishRow (m : Core) (q : QueueId) (x : RunEntry) (h : Kept n s0 s) : Kept n s0 (s.finishRow m q x) := by
  unfold State.finishRow
  split
  · extract_lets e pop a whole ys lanes mode s1
    have h1 : Kept n s0 s1 := (h.modArch _ (CoreArch.statRow_keeps _ _ _ _ _)).ite h
    clear_value s1
    split
    · exact h.modRun _ _ _ _
    · split
      · exact h1.modRun _ _ _ _
      · split
        · split
          · exact h1.modRun _ _ _ _
          · exact Kept.modRun _ _ _ _ (Kept.of_cores rfl (h1.emitRow _ _ _ _ _ _ _))
        · split
          · exact ((h1.emitRow _ _ _ _ _ _ _).claimTail _ _ _).modRun _ _ _ _
          · exact h1.modRun _ _ _ _
  · exact h

theorem Kept.drainRows (m : Core) (q : QueueId) (i f : Nat) (h : Kept n s0 s) : Kept n s0 (s.drainRows m q i f) := by
  induction f generalizing s with
  | zero => exact h
  | succ f ih =>
    unfold State.drainRows
    split
    · exact h
    · split
      · exact h
      · dsimp only
        split
        · exact h.addCols _ _ _ _
        · exact ih ((h.addCols _ _ _ _).finishRow _ _ _)

theorem CoreArch.lateWrite_keeps (w : LateWrite) : KeepsRegs fun a => a.lateWrite w := by
  intro a; cases w <;> exact ⟨rfl, rfl⟩

theorem CoreArch.withLate_keeps (l : List (Nat × List LateWrite)) (q : Nat) : KeepsRegs fun a => a.withLate l q := by
  intro a
  unfold CoreArch.withLate
  refine foldl_keeps (fun b : CoreArch => b.s = a.s ∧ b.p = a.p) _ (fun b x h => ?_) _ _ ⟨rfl, rfl⟩
  refine foldl_keeps (fun b : CoreArch => b.s = a.s ∧ b.p = a.p) _ (fun b w h => ?_) _ _ h
  exact ⟨(CoreArch.lateWrite_keeps w b).1.trans h.1, (CoreArch.lateWrite_keeps w b).2.trans h.2⟩

theorem Kept.drainRun (m : Core) (q : QueueId) (i : Nat) (h : Kept n s0 s) : Kept n s0 (s.drainRun m q i) := by
  unfold State.drainRun
  extract_lets s1
  have h1 : Kept n s0 s1 := h.drainRows _ _ _ _
  clear_value s1
  split
  · exact h1
  · split
    · exact h1
    · extract_lets s2
      have h2 : Kept n s0 s2 := by
        unfold s2 State.commitLate
        split
        · exact h1
        · exact (h1.modArch _ (CoreArch.withLate_keeps _ _)).modRun _ _ _ _
      clear_value s2
      split
      next s3 o0 b0 e3 =>
      have h3 : Kept n s0 (s3, o0, b0).1 := e3 ▸ h2.flushAll _ _ _ _ _
      split
      next s4 o1 b1 e4 =>
      have h4 : Kept n s0 (s4, o1, b1).1 := e4 ▸ h3.flushAll _ _ _ _ _
      exact ((h4.modRun _ _ _ _).endRun _ _ _ _).ite (h4.modRun _ _ _ _)

theorem Kept.drainCore (m : Core) (h : Kept n s0 s) : Kept n s0 (s.drainCore m) := by
  unfold State.drainCore
  exact foldl_keeps _ _ (fun s x h => h.drainRun _ _ _) _ _ h

/-! Collectives. -/

theorem Kept.takeColl (a : Active) (st : Status) (v : Nat) (h : Kept n s0 s) : Kept n s0 (s.takeColl a st v).1 := by
  unfold State.takeColl
  extract_lets q s1 s2 k
  have h2 : Kept n s0 s2 := h.of_cores
    ((State.noteEnded_cores _ a).trans (foldl_same State.cores _ (fun s g => State.oweChunk_cores s a g) _ _))
  clear_value s2
  split
  · exact h2.modCore _ (Keeps.of_eq fun k => by split <;> exact ⟨rfl, rfl, rfl⟩)
  · split
    · exact h2
    · split
      · refine Kept.modArch (f := fun k => k.releaseSide _ st) _ (CoreArch.releaseSide_keeps _ _) ?_
        exact h2.modCore _ (Keeps.of_eq fun k => ⟨rfl, rfl, rfl⟩)
      · exact h2.modCore _ (Keeps.of_eq fun k => ⟨rfl, rfl, rfl⟩)

theorem Kept.writeDrops (a : Active) (h : Kept n s0 s) : Kept n s0 (s.writeDrops a).1 := by
  unfold State.writeDrops
  split
  · exact h
  · split
    next s1 part e =>
    have h1 : Kept n s0 (s1, part).1 := e ▸ h.writeScratch _ _ _
    exact (h1.modCore _ (CoreSt.setFlags_keeps _)).ite h1

theorem Kept.failColl (a : Active) (st : Status) (h : Kept n s0 s) : Kept n s0 (s.failColl a st).1 :=
  Kept.takeColl _ _ _ ((h.writeDrops a).of_cores (State.announceFail_cores _ a st))

theorem Kept.abortColls (m : Core) (h : Kept n s0 s) : Kept n s0 (s.abortColls m).1 :=
  foldl_keeps (fun x : State × List QEntry => Kept n s0 x.1) _ (fun _ _ h => Kept.failColl _ _ h) _ _ h

theorem Kept.completeAll (m : Core) (l : List (QEntry × Status)) (h : Kept n s0 s) : Kept n s0 (s.completeAll m l).1 :=
  foldl_keeps (fun x : State × Option Word => Kept n s0 x.1) _
    (fun _ _ h => Kept.modArch (f := fun k => k.release _ _) _ (fun _ => ⟨rfl, rfl⟩) (Kept.modCore _ (CoreSt.complete_keeps _ _) h)) _ _ h

/-- The abort of a core's queues keeps of every core what Kept names, and its own core then holds nothing (R67). -/
theorem Kept.abortQueues (m : Core) (h : Kept n s0 s) : Kept n s0 (s.abortQueues m) :=
  Kept.modCore _ (fun _ => ⟨rfl, fun _ => rfl, rfl, rfl, id, rfl, rfl⟩)
    (Kept.completeAll _ _ (Kept.modCore _ (CoreSt.overflowFlag_keeps _) (Kept.abortColls _ (Kept.drainCore _ h))))

theorem State.abortQueues_hold (s : State) (n : Core) : ((s.abortQueues n).core n).hold = .none := by
  unfold State.abortQueues State.abortAll
  extract_lets r c ovf p
  exact congrArg CoreSt.hold (State.modCore_same ..)

theorem Kept.settleVote (a : Active) (h : Kept n s0 s) : Kept n s0 (s.settleVote a) := by
  have h2 : Kept n s0 (s.ctrlPhases a (s.collAxes a) []).1 := h.of_cores (by simp)
  unfold State.settleVote
  dsimp only
  split
  · exact Kept.takeColl _ _ _ (h2.of_cores (by simp))
  · exact h2.of_cores (by simp)

theorem Kept.voteMeets (a : Active) (h : Kept n s0 s) : Kept n s0 (s.voteMeets a) := by
  unfold State.voteMeets
  extract_lets mine held s1 v s2 ended
  have h2 : Kept n s0 s2 := h.of_cores rfl
  clear_value s2 ended
  split
  · exact h2.failColl _ _
  · exact Kept.takeColl _ _ _ (h2.of_cores (by simp))
  · exact h2.settleVote _

theorem Kept.standInOn (q : Comm) (h : Kept n s0 s) : Kept n s0 (s.standInOn q) := by
  unfold State.standInOn
  split
  · exact h
  · dsimp only
    split
    · exact h
    · split
      · exact h
      · exact Kept.voteMeets _ (h.modCore _ (Keeps.of_eq fun k => ⟨rfl, rfl, rfl⟩))

theorem Kept.standIn (m : Core) (h : Kept n s0 s) : Kept n s0 (s.standIn m) :=
  foldl_keeps _ _ (fun _ _ h => h.standInOn _) _ _ h

end

/-! ### The core fault (R75) -/

/-- A core that has faulted: its state, cause, address, scalars and predicates. -/
def Stuck (n : Core) (c : BitVec 8) (p : BitVec 61) (x : Vector Word 64) (y : Vector Bool 8) (s : State) : Prop :=
  (s.core n).reg.run = .faulted ∧ (s.core n).hold = .none ∧ (s.core n).reg.faultCause = c ∧ (s.core n).reg.faultPc = p ∧
    bitOf (s.core n).reg.health 5 = true ∧ (s.core n).arch.s = x ∧ (s.core n).arch.p = y

section
variable {n : Core} {c : BitVec 8} {p : BitVec 61} {x : Vector Word 64} {y : Vector Bool 8}

/-- What keeps a core keeps it faulted. -/
theorem Stuck.of_kept {s t : State} (k : Kept n s t) (h : Stuck n c p x y s) : Stuck n c p x y t := by
  obtain ⟨a, b, d, e, f, g, i⟩ := k
  obtain ⟨a', b', d', e', f', g', i'⟩ := h
  exact ⟨a.trans a', b b', d.trans d', e.trans e', f f', g.trans g', i.trans i'⟩

theorem Stuck.of_core {s t : State} (e : t.core n = s.core n) (h : Stuck n c p x y s) : Stuck n c p x y t := by
  simpa [Stuck, e] using h

theorem Stuck.of_cores {s t : State} (e : t.cores = s.cores) (h : Stuck n c p x y s) : Stuck n c p x y t :=
  h.of_core (by simp [State.core, e])

theorem Stuck.step {s : State} {v} (h : Stuck n c p x y s) : Stuck n c p x y { s with step := v } := h
theorem Stuck.ing {s : State} {v} (h : Stuck n c p x y s) : Stuck n c p x y { s with ing := v } := h
theorem Stuck.ctx {s : State} {v} (h : Stuck n c p x y s) : Stuck n c p x y { s with ctx := v } := h

theorem Stuck.modCore {s : State} {f : CoreSt → CoreSt} (m : Core) (hf : Keeps f) (h : Stuck n c p x y s) :
    Stuck n c p x y (s.modCore m f) := h.of_kept ((Kept.refl n s).modCore m hf)

theorem Stuck.standIn {s : State} (m : Core) (h : Stuck n c p x y s) : Stuck n c p x y (s.standIn m) :=
  h.of_kept ((Kept.refl n s).standIn m)

theorem Stuck.abortQueues {s : State} (m : Core) (h : Stuck n c p x y s) : Stuck n c p x y (s.abortQueues m) :=
  h.of_kept ((Kept.refl n s).abortQueues m)

/-! A core that faults already stays as it is; another core's fault leaves it alone. -/

theorem Stuck.bareFault {s : State} (m : Core) (d : BitVec 8) (pc : Word) (h : Stuck n c p x y s) :
    Stuck n c p x y (s.bareFault m d pc) := by
  unfold State.bareFault
  split
  · exact h
  · rename_i hf
    have hm : m ≠ n := fun e => hf (by rw [e, h.1]; rfl)
    have h2 := ((h.abortQueues m).of_core (t := (s.abortQueues m).modCore m fun c =>
      { c.setFlags 0x20 with
        reg := { (c.setFlags 0x20).reg with run := .faulted, faultCause := d, faultPc := (pc >>> 3).truncate 61 }
        stopping := false }) (State.modCore_ne _ _ _ _ hm.symm)).standIn m
    dsimp only at h2 ⊢
    split <;> split <;> exact h2.of_cores (by simp)

theorem Stuck.event {s : State} {a b d : Nat} {e : Status} {g i : Nat} {j : Word} (h : Stuck n c p x y s) :
    Stuck n c p x y (s.event a b d e g i j) := h.of_cores (State.event_cores ..)

theorem Stuck.send {s : State} {k : Packet} (h : Stuck n c p x y s) : Stuck n c p x y (s.send k) :=
  h.of_cores (State.send_cores ..)

theorem Stuck.sendDigest {s : State} {k : Packet} (h : Stuck n c p x y s) : Stuck n c p x y (s.sendDigest k) := by
  unfold State.sendDigest
  split
  · unfold State.takeDigest
    dsimp only
    split
    · exact h
    · exact h.step
  · exact h.send

theorem Stuck.signal {s : State} (m : Core) (i : Nat) (st : Status) (h : Stuck n c p x y s) :
    Stuck n c p x y (s.modCore m fun _ => ((s.core m).signal i st).1) := by
  have e : (s.modCore m fun _ => ((s.core m).signal i st).1) = s.modCore m fun k => (k.signal i st).1 := by
    simp [State.modCore, State.core, vmod]
  rw [e]
  exact h.modCore m fun k => ⟨rfl, id, rfl, rfl, id, rfl, rfl⟩

theorem Stuck.clickerSignal {s : State} (h : Stuck n c p x y s) : Stuck n c p x y s.clickerSignal := by
  unfold State.clickerSignal
  split
  · exact h
  · dsimp only
    split
    · exact h.ing
    · split
      · exact (h.signal _ _ _).bareFault _ _ _
      · exact h.signal _ _ _

theorem Stuck.map {s : State} {f : CoreSt → CoreSt} (hf : Keeps f) (h : Stuck n c p x y s) :
    Stuck n c p x y { s with cores := s.cores.map f } := by
  obtain ⟨a, b, d, e, g, i, j⟩ := hf (s.core n)
  obtain ⟨a', b', d', e', g', i', j'⟩ := h
  have q : ({ s with cores := s.cores.map f } : State).core n = f (s.core n) := by simp [State.core]
  simp only [Stuck, q, a, d, e, i, j]
  exact ⟨a', b b', d', e', g g', i', j'⟩

theorem Stuck.irq {s : State} {k : Nat} (h : Stuck n c p x y s) : Stuck n c p x y (s.irq k) := h.ctx

theorem Stuck.newAttempt {s : State} (b : Byte) (d : Bool) (h : Stuck n c p x y s) : Stuck n c p x y (s.newAttempt b d) := by
  have h1 := h.map (f := fun k => k.nextAttempt d) fun k => ⟨rfl, id, rfl, rfl, id, rfl, rfl⟩
  exact h1.of_cores rfl

theorem Stuck.abortWaits {s : State} (h : Stuck n c p x y s) :
    Stuck n c p x y { s with cores := s.cores.map CoreSt.abortWait } := by
  have h2 : (s.core n).abortWait = s.core n := by
    unfold CoreSt.abortWait; rw [h.2.1]
  refine h.of_core ?_
  rw [← h2]; simp [State.core]

theorem Stuck.abortStep {s : State} (h : Stuck n c p x y s) : Stuck n c p x y s.abortStep := by
  unfold State.abortStep
  extract_lets s1 s2 e a s3 s4 s5
  have h2 : Stuck n c p x y s2 := h.of_cores (by simp [s2, s1])
  clear_value s2
  have h4 : Stuck n c p x y s4 := h2.abortWaits.of_cores rfl
  clear_value s4
  have h5 : Stuck n c p x y s5 := (h4.newAttempt _ _).event
  clear_value s5
  split
  · exact h5.clickerSignal
  · exact h5

theorem Stuck.roundDone {s : State} (h : Stuck n c p x y s) : Stuck n c p x y s.roundDone := by
  unfold State.roundDone
  extract_lets w r s1 s2 s3
  have h1 : Stuck n c p x y s1 := by unfold s1; split <;> exact h.step
  clear_value s1
  have h2 : Stuck n c p x y s2 := h1.of_cores rfl
  clear_value s2
  have h3 : Stuck n c p x y s3 := by
    unfold s3; split
    · exact h2.of_cores (State.driveFreeze_cores ..)
    · exact h2
  clear_value s3
  split
  · exact h3.abortStep
  · exact h3

theorem Stuck.runPhases {s : State} (i : Nat) (b : Bool) (f : Nat) (h : Stuck n c p x y s) :
    Stuck n c p x y (s.runPhases i b f) := by
  induction f generalizing s i b with
  | zero => exact h.roundDone
  | succ f ih =>
    unfold State.runPhases
    split
    · exact ih _ _ h
    · extract_lets s1 ws w
      have h1 : Stuck n c p x y s1 := by
        unfold s1; split
        · exact h
        · exact h.of_cores (State.enterPhase_cores ..)
      clear_value s1
      split
      · exact ih _ _ h1.step
      · exact h1

theorem Stuck.beginRound {s : State} (w : BitVec 16) (h : Stuck n c p x y s) : Stuck n c p x y (s.beginRound w) := by
  unfold State.beginRound
  extract_lets s0 s1
  have h1 : Stuck n c p x y s1 := h.step
  clear_value s1
  split
  · exact h1.runPhases _ _ _
  · exact h1.roundDone

theorem CoreSt.takeFlag_keeps : Keeps CoreSt.takeFlag := by
  intro k; unfold CoreSt.takeFlag; split <;> exact ⟨rfl, id, rfl, rfl, id, rfl, rfl⟩

theorem CoreSt.takeSeal_keeps : Keeps CoreSt.takeSeal := by
  intro k; unfold CoreSt.takeSeal; extract_lets; split <;> exact ⟨rfl, id, rfl, rfl, id, rfl, rfl⟩

theorem Stuck.startFlag {s : State} (h : Stuck n c p x y s) : Stuck n c p x y s.startFlag := by
  unfold State.startFlag
  extract_lets own t held t2 s1 s2
  have h1 : Stuck n c p x y s1 := (h.map CoreSt.takeFlag_keeps).of_cores rfl
  clear_value s1
  refine Stuck.beginRound _ ?_
  unfold s2; split
  · exact h1.sendDigest
  · exact h1

theorem Stuck.startSeal {s : State} (h : Stuck n c p x y s) : Stuck n c p x y s.startSeal := by
  unfold State.startSeal
  extract_lets own t s1
  have h1 : Stuck n c p x y s1 := (h.map CoreSt.takeSeal_keeps).of_cores rfl
  exact h1.beginRound _

theorem Stuck.pokeVote {s : State} (h : Stuck n c p x y s) : Stuck n c p x y s.pokeVote := by
  unfold State.pokeVote
  extract_lets s1
  have h1 : Stuck n c p x y s1 := by
    unfold s1; split
    · exact h.startFlag
    · exact h
  clear_value s1
  split
  · exact h1.startSeal
  · exact h1

end

/-- What a core fault does to its core: FAULTED with the cause and the address, core_fault set, scalars and predicates
kept (R75). -/
theorem State.coreFault_spec (s : State) (n : Core) (c : BitVec 8) (pc : Word) (h : (s.core n).reg.run ≠ .faulted) :
    Stuck n c ((pc >>> 3).truncate 61) (s.core n).arch.s (s.core n).arch.p (s.coreFault n c pc) := by
  unfold State.coreFault State.bareFault
  refine Stuck.pokeVote ?_
  rw [if_neg (by simpa using h)]
  extract_lets s1 s2 s3 s4 s5
  have ha : (s1.core n).arch.s = (s.core n).arch.s ∧ (s1.core n).arch.p = (s.core n).arch.p ∧ (s1.core n).hold = .none := by
    have e1 : s1 = s.abortQueues n := rfl
    have k := (Kept.refl n s).abortQueues n
    rw [e1]; exact ⟨k.2.2.2.2.2.1, k.2.2.2.2.2.2, State.abortQueues_hold s n⟩
  clear_value s1
  have e2 : s2.core n = { (s1.core n).setFlags 0x20 with
      reg := { ((s1.core n).setFlags 0x20).reg with run := .faulted, faultCause := c, faultPc := (pc >>> 3).truncate 61 }
      stopping := false } := State.modCore_same ..
  have h2 : Stuck n c ((pc >>> 3).truncate 61) (s.core n).arch.s (s.core n).arch.p s2 := by
    unfold Stuck
    rw [e2]
    have eb : bitOf ((s1.core n).setFlags 0x20).reg.health 5 = true := by simp [bitOf_eq, CoreSt.setFlags]
    have ea : ((s1.core n).setFlags 0x20).arch = (s1.core n).arch := rfl
    have eh : ((s1.core n).setFlags 0x20).hold = (s1.core n).hold := rfl
    generalize (s1.core n).setFlags 0x20 = k at *
    exact ⟨rfl, eh.trans ha.2.2, rfl, rfl, eb, ea ▸ ha.1, ea ▸ ha.2.1⟩
  clear_value s2
  have h3 : Stuck n c ((pc >>> 3).truncate 61) (s.core n).arch.s (s.core n).arch.p s3 := h2.standIn n
  clear_value s3
  have h4 : Stuck n c ((pc >>> 3).truncate 61) (s.core n).arch.s (s.core n).arch.p s4 := Stuck.event h3.irq
  clear_value s4
  have h5 : Stuck n c ((pc >>> 3).truncate 61) (s.core n).arch.s (s.core n).arch.p s5 := by
    unfold s5; split
    · exact h4.of_cores (State.driveFreeze_cores ..)
    · exact h4
  split
  · exact h5.of_cores (State.driveFreeze_cores ..)
  · exact h5

end Sys2Proof.Machine
end

