-- ==== Sys2Proof/Laws/Memory.lean ====
section
/-! SUPPORT. Tables and memories: a read after a write, the canonical form kept by every operation, and the place of a
core's own scratch in the address map. -/

namespace Sys2Proof.Machine

/-! ### Tables -/

theorem SMap.get_above {α : Type} (d : α) (m : SMap α) [DecidableEq α] (k j : Nat) (hw : SMap.wf d m = true)
    (ha : SMap.above j m = true) (hk : k ≤ j) : SMap.get d m k = d := by
  induction m generalizing j with
  | nil => rfl
  | cons e r ih =>
    obtain ⟨i, v⟩ := e
    simp only [SMap.above, decide_eq_true_eq] at ha
    simp only [SMap.wf, Bool.and_eq_true] at hw
    have : i ≠ k := by omega
    simp only [SMap.get, this, if_false]
    exact ih i hw.2 hw.1.2 (by omega)

/-- A read after a write, on a table in canonical form. -/
theorem SMap.get_put {α : Type} [DecidableEq α] (d : α) (m : SMap α) (k j : Nat) (v : α) (hw : SMap.wf d m = true) :
    SMap.get d (SMap.put d m k v) j = if j = k then v else SMap.get d m j := by
  induction m with
  | nil =>
    by_cases hv : v = d
    · simp [SMap.put, hv, SMap.get]
    · by_cases e : j = k
      · simp [SMap.put, hv, SMap.get, e]
      · have : k ≠ j := fun h => e h.symm
        simp [SMap.put, hv, SMap.get, e, this]
  | cons e r ih =>
    obtain ⟨i, w⟩ := e
    simp only [SMap.wf, Bool.and_eq_true] at hw
    have ih := ih hw.2
    have out : i = k → SMap.get d r k = d := fun h => SMap.get_above d r k i hw.2 hw.1.2 (by omega)
    by_cases h1 : i = k
    · by_cases hv : v = d
      · by_cases e : j = k
        · subst e; simp [SMap.put, h1, hv]; exact out h1
        · have : k ≠ j := fun h => e h.symm
          simp [SMap.put, h1, hv, SMap.get, this, e]
      · by_cases e : j = k
        · simp [SMap.put, h1, hv, SMap.get, e]
        · have : k ≠ j := fun h => e h.symm
          simp [SMap.put, h1, hv, SMap.get, this, e]
    · by_cases h2 : k < i
      · by_cases hv : v = d
        · by_cases e : j = k
          · subst e
            have : SMap.get d r j = d := SMap.get_above d r j i hw.2 hw.1.2 (by omega)
            simp [SMap.put, h1, h2, hv, SMap.get, this]
          · simp [SMap.put, h1, h2, hv, e]
        · by_cases e : j = k
          · simp [SMap.put, h1, h2, hv, SMap.get, e]
          · have : k ≠ j := fun h => e h.symm
            simp [SMap.put, h1, h2, hv, SMap.get, this, e]
      · by_cases e : i = j
        · subst e
          simp [SMap.put, h1, h2, SMap.get]
        · simp [SMap.put, h1, h2, SMap.get, e, ih]

theorem SMap.above_put {α : Type} [DecidableEq α] (d : α) (m : SMap α) (k j : Nat) (v : α) (hm : SMap.above j m = true)
    (hw : SMap.wf d m = true) (hk : j < k) : SMap.above j (SMap.put d m k v) = true := by
  cases m with
  | nil => by_cases hv : v = d <;> simp [SMap.put, hv, SMap.above, hk]
  | cons e r =>
    obtain ⟨i, w⟩ := e
    simp only [SMap.above, decide_eq_true_eq] at hm
    simp only [SMap.wf, Bool.and_eq_true] at hw
    by_cases h1 : i = k
    · by_cases hv : v = d
      · simp only [SMap.put, h1, hv, if_true]
        cases r with
        | nil => rfl
        | cons f t => simp only [SMap.above, decide_eq_true_eq] at hw ⊢; omega
      · simp [SMap.put, h1, hv, SMap.above, hk]
    · by_cases h2 : k < i
      · by_cases hv : v = d <;> simp [SMap.put, h1, h2, hv, SMap.above, hk, hm]
      · simp [SMap.put, h1, h2, SMap.above, hm]

/-- Every write keeps the canonical form. -/
theorem SMap.wf_put {α : Type} [DecidableEq α] (d : α) (m : SMap α) (k : Nat) (v : α) (hw : SMap.wf d m = true) :
    SMap.wf d (SMap.put d m k v) = true := by
  induction m with
  | nil => by_cases hv : v = d <;> simp [SMap.put, hv, SMap.wf, SMap.above]
  | cons e r ih =>
    obtain ⟨i, w⟩ := e
    have hw' := hw
    simp only [SMap.wf, Bool.and_eq_true, decide_eq_true_eq] at hw'
    by_cases h1 : i = k
    · by_cases hv : v = d
      · simp only [SMap.put, h1, hv, if_true]; exact hw'.2
      · simp only [SMap.put, h1, hv, if_true, if_false, SMap.wf, Bool.and_eq_true, decide_eq_true_eq]
        exact ⟨⟨hv, h1 ▸ hw'.1.2⟩, hw'.2⟩
    · by_cases h2 : k < i
      · by_cases hv : v = d
        · simpa only [SMap.put, h1, h2, hv, if_true, if_false] using hw
        · simp only [SMap.put, h1, h2, hv, if_true, if_false, SMap.wf, Bool.and_eq_true, decide_eq_true_eq]
          exact ⟨⟨hv, by simp [SMap.above, h2]⟩, hw'⟩
      · simp only [SMap.put, h1, h2, if_false, SMap.wf, Bool.and_eq_true, decide_eq_true_eq]
        exact ⟨⟨hw'.1.1, SMap.above_put d r k i v hw'.1.2 hw'.2 (by omega)⟩, ih hw'.2⟩

theorem SMap.above_filter {α : Type} [DecidableEq α] (d : α) (m : SMap α) (p : Nat × α → Bool) (j : Nat) (hw : SMap.wf d m = true)
    (ha : SMap.above j m = true) : SMap.above j (m.filter p) = true := by
  induction m with
  | nil => rfl
  | cons e r ih =>
    obtain ⟨i, v⟩ := e
    simp only [SMap.above, decide_eq_true_eq] at ha
    simp only [SMap.wf, Bool.and_eq_true] at hw
    by_cases hp : p (i, v) = true
    · simp [hp, SMap.above, ha]
    · rw [List.filter_cons_of_neg hp]
      refine ih hw.2 ?_
      cases r with
      | nil => rfl
      | cons f t => have := hw.1.2; simp only [SMap.above, decide_eq_true_eq] at this ⊢; omega

/-- Leaving entries out keeps the canonical form. -/
theorem SMap.wf_filter {α : Type} [DecidableEq α] (d : α) (m : SMap α) (p : Nat × α → Bool) (hw : SMap.wf d m = true) :
    SMap.wf d (m.filter p) = true := by
  induction m with
  | nil => rfl
  | cons e r ih =>
    obtain ⟨i, v⟩ := e
    have hw' := hw
    simp only [SMap.wf, Bool.and_eq_true, decide_eq_true_eq] at hw'
    by_cases hp : p (i, v) = true
    · simp only [hp, List.filter_cons_of_pos, SMap.wf, Bool.and_eq_true, decide_eq_true_eq]
      exact ⟨⟨hw'.1.1, SMap.above_filter d r p i hw'.2 hw'.1.2⟩, ih hw'.2⟩
    · rw [List.filter_cons_of_neg hp]
      exact ih hw'.2

/-! ### Memories -/

theorem Memory.read_write (m : Memory) (a b : Nat) (v : Byte) (hw : m.wf = true) :
    (m.write a v).read b = if b = a then v else m.read b := SMap.get_put 0 m a b v hw

theorem Memory.wf_write (m : Memory) (a : Nat) (v : Byte) (hw : m.wf = true) : (m.write a v).wf = true :=
  SMap.wf_put 0 m a v hw

theorem Memory.wf_writeN (m : Memory) (a : Nat) (bs : List Byte) (hw : m.wf = true) : (m.writeN a bs).wf = true := by
  induction bs generalizing m a with
  | nil => exact hw
  | cons b r ih => exact ih (m.write a b) (a + 1) (Memory.wf_write m a b hw)

theorem Memory.wf_below (m : Memory) (n : Nat) (hw : m.wf = true) : (m.below n).wf = true := SMap.wf_filter 0 m _ hw

theorem Memory.wf_copy (m : Memory) (src dst n : Nat) (hw : m.wf = true) : (m.copy src dst n).wf = true :=
  foldl_keeps (fun x : Memory => x.wf = true) _ (fun x _ hx => Memory.wf_write x _ _ hx) _ _ (SMap.wf_filter 0 m _ hw)

/-! ### A core's own scratch in the address map (R54, R499) -/

theorem State.locate_scratch (s : State) (b : Bool) (n : Core) (o : Nat) (h : o < scratchSize) :
    s.locate b (scratchAddr n o) = some (.scratch n o) := by
  have hn := n.isLt
  unfold scratchSize at h
  have hw : s.welt.areaOn.toNat < 4096 := s.welt.areaOn.isLt
  have e1 : ¬ scratchAddr n o < 0x18000000000 := by unfold scratchAddr scratchBase; omega
  have e2 : ¬ (weltBase ≤ scratchAddr n o ∧ scratchAddr n o < weltBase + s.welt.areaOn.toNat * 2 ^ 18) := by
    unfold scratchAddr scratchBase weltBase; omega
  have e3 : scratchAddr n o - scratchBase = n.val * 2 ^ 24 + o := by unfold scratchAddr scratchBase; omega
  have e4 : (n.val * 2 ^ 24 + o) % 2 ^ 24 = o := by omega
  have e5 : (n.val * 2 ^ 24 + o) / 2 ^ 24 = n.val := by omega
  have e6 : scratchBase ≤ scratchAddr n o ∧ scratchAddr n o < scratchBase + 16 * 2 ^ 24 ∧
      (scratchAddr n o - scratchBase) % 2 ^ 24 < scratchSize := by
    rw [e3, e4]; unfold scratchAddr scratchBase scratchSize; omega
  unfold State.locate
  rw [if_neg e1]
  simp only [Bool.and_eq_true, decide_eq_true_eq]
  have e7 : (Fin.ofNat 16 n.val : Core) = n := Fin.ext (Nat.mod_eq_of_lt hn)
  rw [if_neg e2, if_pos (by exact ⟨⟨e6.1, e6.2.1⟩, e6.2.2⟩), e3, e4, e5, e7]

theorem scratchAddr_add (n : Core) (o i : Nat) : scratchAddr n o + i = scratchAddr n (o + i) := by
  unfold scratchAddr; omega

/-- The bytes of a core's own scratch. -/
theorem State.bytes_scratch (s : State) (b : Bool) (n : Core) (o k : Nat) (h : o + k ≤ scratchSize) :
    s.bytes b (scratchAddr n o) k = (List.range k).map fun i => (s.core n).arch.scratch.read (o + i) := by
  unfold State.bytes
  refine List.map_congr_left fun i hi => ?_
  rw [scratchAddr_add, State.locate_scratch s b n _ (by have := List.mem_range.mp hi; omega)]
  rfl

theorem State.anyPoison_scratch (s : State) (b : Bool) (n : Core) (o k : Nat) (h : o + k ≤ scratchSize) :
    s.anyPoison b (scratchAddr n o) k =
      (List.range k).any fun i => (s.core n).arch.scratchPoison.contains ((o + i) / 16) := by
  unfold State.anyPoison
  have : ∀ i ∈ List.range k, (match s.locate b (scratchAddr n o + i) with
      | some l => s.poisoned l.word
      | none => false) = (s.core n).arch.scratchPoison.contains ((o + i) / 16) := by
    intro i hi
    rw [scratchAddr_add, State.locate_scratch s b n _ (by have := List.mem_range.mp hi; omega)]
    rfl
  rw [Bool.eq_iff_iff, List.any_eq_true, List.any_eq_true]
  constructor
  · rintro ⟨i, hi, h⟩; exact ⟨i, hi, (this i hi).symm.trans h⟩
  · rintro ⟨i, hi, h⟩; exact ⟨i, hi, (this i hi).trans h⟩

/-- A read of a core's own scratch that finds no error. -/
theorem State.readScratch_clean (s : State) (n : Core) (o k : Nat) (h : o + k ≤ scratchSize) :
    s.readScratch n o k .clean =
      if (List.range k).any fun i => (s.core n).arch.scratchPoison.contains ((o + i) / 16) then (s, .eccUncorrectable, [])
      else (s, .ok, (List.range k).map fun i => (s.core n).arch.scratch.read (o + i)) := by
  unfold State.readScratch State.readMem
  extract_lets s1
  have e : s1 = s := by unfold s1; split <;> rfl
  clear_value s1
  subst e
  rw [State.anyPoison_scratch s1 false n o k h, State.bytes_scratch s1 false n o k h]

/-- A write of one byte of a core's own scratch changes that byte and nothing else. -/
theorem State.writeByte_scratch (s : State) (n : Core) (o : Nat) (b : Byte) (h : o < scratchSize) :
    s.writeByte (scratchAddr n o) b = s.modArch n fun x => { x with scratch := x.scratch.write o b } := by
  have e1 : ¬ scratchAddr n o < 0x18000000000 := by unfold scratchAddr scratchBase; omega
  unfold State.writeByte
  rw [if_neg e1, State.locate_scratch s true n o h]

theorem State.modCore_self (s : State) (n : Core) (f : CoreSt → CoreSt) (h : f (s.core n) = s.core n) : s.modCore n f = s := by
  unfold State.core at h
  have : vmod s.cores n f = s.cores := by
    unfold vmod vput
    rw [h]
    exact Vector.set_getElem_self n.isLt
  unfold State.modCore
  rw [this]

theorem length_eraseDups {α : Type} [BEq α] : ∀ (k : Nat) (l : List α), l.length ≤ k → l.eraseDups.length ≤ l.length := by
  intro k
  induction k with
  | zero => intro l h; cases l with
    | nil => simp
    | cons a r => simp at h
  | succ k ih =>
    intro l h
    cases l with
    | nil => simp
    | cons a r =>
      simp only [List.length_cons] at h
      rw [List.eraseDups_cons]
      have h1 := List.length_filter_le (fun b => !b == a) r
      have := ih (r.filter fun b => !b == a) (by omega)
      simp only [List.length_cons]; omega

/-- A run of byte writes to a core's own scratch. -/
theorem cells_fold (n : Core) (o : Nat) (bs : List Byte) (k : Nat) (s : State) (h : o + k + bs.length ≤ scratchSize) :
    (((List.range' k bs.length).zip bs).map fun p => (scratchAddr n o + p.1, p.2)).foldl (fun s c => s.writeByte c.1 c.2) s =
      s.modArch n fun x => { x with scratch := x.scratch.writeN (o + k) bs } := by
  induction bs generalizing k s with
  | nil =>
    exact (State.modCore_self s n _ rfl).symm
  | cons b r ih =>
    simp only [List.length_cons] at h
    simp only [List.length_cons, List.range'_succ, List.zip_cons_cons, List.map_cons, List.foldl_cons]
    rw [ih (k + 1) _ (by omega), scratchAddr_add, State.writeByte_scratch _ _ _ _ (by omega)]
    simp only [State.modArch, State.modCore, vmod, vput, Memory.writeN]
    congr 1
    simp [Nat.add_assoc]

theorem eraseDups_all {α : Type} [BEq α] [LawfulBEq α] (l : List α) (x : α) (h : ∀ y ∈ l, y = x) (hl : l ≠ []) :
    l.eraseDups = [x] := by
  cases l with
  | nil => exact absurd rfl hl
  | cons a r =>
    have ha : a = x := h a (by simp)
    rw [List.eraseDups_cons]
    have : r.filter (fun b => !b == a) = [] := by
      rw [List.filter_eq_nil_iff]
      intro b hb
      have := h b (by simp [hb])
      simp [this, ha]
    rw [this, ha]; rfl

/-- A write that reaches no epoch granule of a stack holding a decision is made at once (R255). -/
theorem State.writeCells_now (s : State) (cells : List (Nat × Byte)) (h : ∀ c ∈ cells, s.waitsAt c.1 = false) :
    s.writeCells cells = s.writeNow cells := by
  have e : (cells.filter fun c => s.waitsAt c.1) = [] := by
    rw [List.filter_eq_nil_iff]
    intro c hc
    simp [h c hc]
  unfold State.writeCells
  rw [e]
  rfl

theorem State.waitsAt_scratch (s : State) (n : Core) (o : Nat) : s.waitsAt (scratchAddr n o) = false := by
  have e1 : ¬ scratchAddr n o < 0x18000000000 := by unfold scratchAddr scratchBase; omega
  unfold State.waitsAt
  rw [decide_eq_false e1, Bool.false_and, Bool.false_and]

theorem State.writeScratch_now (s : State) (n : Core) (o : Nat) (bs : List Byte) :
    s.writeScratch n o bs = s.writeNow (((List.range bs.length).zip bs).map fun p => (scratchAddr n o + p.1, p.2)) := by
  refine State.writeCells_now s _ fun c hc => ?_
  obtain ⟨p, -, rfl⟩ := List.mem_map.mp hc
  rw [scratchAddr_add]
  exact State.waitsAt_scratch s n _

/-- A write of a few bytes inside one word of a core's own scratch: the bytes change, and the answer tells whether the word
is poisoned, which it stays (R518). -/
theorem State.writeScratch_word (s : State) (n : Core) (o : Nat) (bs : List Byte) (h : o + bs.length ≤ scratchSize)
    (h0 : 0 < bs.length) (h16 : bs.length < 16) (hw : ∀ i < bs.length, (o + i) / 16 = o / 16) :
    s.writeScratch n o bs = (s.modArch n fun x => { x with scratch := x.scratch.writeN o bs },
      (s.core n).arch.scratchPoison.contains (o / 16)) := by
  rw [State.writeScratch_now]
  unfold State.writeNow
  rw [List.range_eq_range']
  extract_lets s1 words
  have e1 : s1 = s.modArch n fun x => { x with scratch := x.scratch.writeN o bs } := cells_fold n o bs 0 s (by omega)
  have ew : words = [(Loc.scratch n (o / 16), 16)] := by
    refine eraseDups_all _ _ ?_ ?_
    · intro y hy
      simp only [List.mem_filterMap, List.mem_map] at hy
      obtain ⟨c, ⟨p, hp, rfl⟩, hl⟩ := hy
      obtain ⟨i, b⟩ := p
      have hi : i < bs.length := by
        have := (List.of_mem_zip hp).1
        simp only [List.mem_range'_1] at this; omega
      dsimp only at hl
      rw [scratchAddr_add, State.locate_scratch _ _ _ _ (by omega)] at hl
      simp only [Option.map_some, Option.some.injEq] at hl
      rw [← hl]
      simp [Loc.word, Loc.wordBytes, hw i hi]
    · intro hnil
      have h1 : ∃ b, (0, b) ∈ (List.range' 0 bs.length).zip bs := by
        cases bs with
        | nil => exact absurd h0 (Nat.lt_irrefl _)
        | cons b r => exact ⟨b, by rw [List.length_cons, List.range'_succ]; exact List.mem_cons_self⟩
      obtain ⟨b, hb⟩ := h1
      have h2 : (s1.locate true (scratchAddr n (o + 0))).map (fun l => (l.word, l.wordBytes)) =
          some ((Loc.scratch n (o + 0)).word, (Loc.scratch n (o + 0)).wordBytes) := by
        rw [State.locate_scratch _ _ _ _ (by omega)]; rfl
      have hm := List.filterMap_eq_nil_iff.mp hnil (scratchAddr n o + 0, b) (List.mem_map.mpr ⟨(0, b), hb, rfl⟩)
      dsimp only at hm
      rw [scratchAddr_add, h2] at hm
      exact absurd hm (Option.some_ne_none _)
  clear_value words s1
  subst ew e1
  simp only [List.foldl_cons, List.foldl_nil]
  have ep : ((s.modArch n fun x => { x with scratch := x.scratch.writeN o bs }).poisoned (Loc.scratch n (o / 16))) =
      (s.core n).arch.scratchPoison.contains (o / 16) := by
    simp [State.poisoned]
  rw [ep]
  cases hp : (s.core n).arch.scratchPoison.contains (o / 16)
  · simp
  · simp only [Bool.not_true, Bool.false_eq_true, if_false]
    rw [if_neg]
    intro hc
    have hl := List.length_filter_le (fun a => ((s.modArch n fun x => { x with scratch := x.scratch.writeN o bs }).locate true a).map Loc.word == some (Loc.scratch n (o / 16)))
      (((((List.range' 0 bs.length).zip bs).map fun p => (scratchAddr n o + p.1, p.2)).map Prod.fst).eraseDups)
    have hd : (((((List.range' 0 bs.length).zip bs).map fun p => (scratchAddr n o + p.1, p.2)).map Prod.fst).eraseDups).length ≤ bs.length := by
      refine Nat.le_trans (length_eraseDups _ _ (Nat.le_refl _)) ?_
      simp
    omega

end Sys2Proof.Machine
end

