-- ==== Sys2Proof/Laws/PerInstr.lean ====
section
/-! SUPPORT. Per command: no word spells it, since spec/opcode_table.json gives no row bits. -/

namespace Sys2Proof.Laws.Encoding

open Sys2Proof

/-- No word of any length decodes to the command. -/
def Statement (i : Instr) : Prop := ∀ nbits w : Nat, decodeTableWord nbits w ≠ some i

/-- The decoder reads no command from any word. -/
theorem no_word (i : Instr) : Statement i := fun _ _ h => nomatch h

theorem sAdd (n : Core) (w : BitVec 48) : Statement (.sAdd n w) := no_word _
theorem sSub (n : Core) (w : BitVec 48) : Statement (.sSub n w) := no_word _
theorem sMul (n : Core) (w : BitVec 48) : Statement (.sMul n w) := no_word _
theorem sAnd (n : Core) (w : BitVec 48) : Statement (.sAnd n w) := no_word _
theorem sOr (n : Core) (w : BitVec 48) : Statement (.sOr n w) := no_word _
theorem sXor (n : Core) (w : BitVec 48) : Statement (.sXor n w) := no_word _
theorem sShl (n : Core) (w : BitVec 48) : Statement (.sShl n w) := no_word _
theorem sShr (n : Core) (w : BitVec 48) : Statement (.sShr n w) := no_word _
theorem sSar (n : Core) (w : BitVec 48) : Statement (.sSar n w) := no_word _
theorem sMin (n : Core) (w : BitVec 48) : Statement (.sMin n w) := no_word _
theorem sMax (n : Core) (w : BitVec 48) : Statement (.sMax n w) := no_word _
theorem sMinu (n : Core) (w : BitVec 48) : Statement (.sMinu n w) := no_word _
theorem sMaxu (n : Core) (w : BitVec 48) : Statement (.sMaxu n w) := no_word _
theorem sAddi (n : Core) (w : BitVec 48) : Statement (.sAddi n w) := no_word _
theorem sLi (n : Core) (w : BitVec 48) : Statement (.sLi n w) := no_word _
theorem sLui (n : Core) (w : BitVec 48) : Statement (.sLui n w) := no_word _
theorem sAndi (n : Core) (w : BitVec 48) : Statement (.sAndi n w) := no_word _
theorem sOri (n : Core) (w : BitVec 48) : Statement (.sOri n w) := no_word _
theorem sShli (n : Core) (w : BitVec 48) : Statement (.sShli n w) := no_word _
theorem sShri (n : Core) (w : BitVec 48) : Statement (.sShri n w) := no_word _
theorem sLdb (n : Core) (w : BitVec 48) (e : Ecc) : Statement (.sLdb n w e) := no_word _
theorem sLdh (n : Core) (w : BitVec 48) (e : Ecc) : Statement (.sLdh n w e) := no_word _
theorem sLdw (n : Core) (w : BitVec 48) (e : Ecc) : Statement (.sLdw n w e) := no_word _
theorem sLdd (n : Core) (w : BitVec 48) (e : Ecc) : Statement (.sLdd n w e) := no_word _
theorem sStb (n : Core) (w : BitVec 48) : Statement (.sStb n w) := no_word _
theorem sSth (n : Core) (w : BitVec 48) : Statement (.sSth n w) := no_word _
theorem sStw (n : Core) (w : BitVec 48) : Statement (.sStw n w) := no_word _
theorem sStd (n : Core) (w : BitVec 48) : Statement (.sStd n w) := no_word _
theorem pCmp (n : Core) (w : BitVec 48) : Statement (.pCmp n w) := no_word _
theorem pCmpi (n : Core) (w : BitVec 48) : Statement (.pCmpi n w) := no_word _
theorem pLog (n : Core) (w : BitVec 48) : Statement (.pLog n w) := no_word _
theorem br (n : Core) (w : BitVec 48) : Statement (.br n w) := no_word _
theorem jr (n : Core) (w : BitVec 48) : Statement (.jr n w) := no_word _
theorem call (n : Core) (w : BitVec 48) : Statement (.call n w) := no_word _
theorem callr (n : Core) (w : BitVec 48) : Statement (.callr n w) := no_word _
theorem instructionLineFetch (n : Core) (line : BitVec 58) (e : Ecc) : Statement (.instructionLineFetch n line e) := no_word _
theorem issueQueuePlaceFreed (n : Core) : Statement (.issueQueuePlaceFreed n) := no_word _
theorem semWait (n : Core) (w : BitVec 48) : Statement (.semWait n w) := no_word _
theorem semWaitSatisfied (n : Core) : Statement (.semWaitSatisfied n) := no_word _
theorem semSig (n : Core) (w : BitVec 48) : Statement (.semSig n w) := no_word _
theorem semPeek (n : Core) (w : BitVec 48) : Statement (.semPeek n w) := no_word _
theorem fence (n : Core) (w : BitVec 48) : Statement (.fence n w) := no_word _
theorem fenceComplete (n : Core) : Statement (.fenceComplete n) := no_word _
theorem lyrOpen (n : Core) (w : BitVec 48) : Statement (.lyrOpen n w) := no_word _
theorem lyrOpenComplete (n : Core) (e : Ecc) : Statement (.lyrOpenComplete n e) := no_word _
theorem lyrClose (n : Core) (w : BitVec 48) : Statement (.lyrClose n w) := no_word _
theorem lyrCloseOutcome (n : Core) : Statement (.lyrCloseOutcome n) := no_word _
theorem stepVote (n : Core) (w : BitVec 48) : Statement (.stepVote n w) := no_word _
theorem stepVoteContribute (n : Core) : Statement (.stepVoteContribute n) := no_word _
theorem stepCommit (n : Core) (w : BitVec 48) : Statement (.stepCommit n w) := no_word _
theorem stepCommitSeal (n : Core) : Statement (.stepCommitSeal n) := no_word _
theorem sysNop (n : Core) (w : BitVec 48) : Statement (.sysNop n w) := no_word _
theorem sysHalt (n : Core) (w : BitVec 48) : Statement (.sysHalt n w) := no_word _
theorem sysHaltComplete (n : Core) : Statement (.sysHaltComplete n) := no_word _
theorem sysRep (n : Core) (w : BitVec 48) : Statement (.sysRep n w) := no_word _
theorem sysCyc (n : Core) (w : BitVec 48) : Statement (.sysCyc n w) := no_word _
theorem sysMark (n : Core) (w : BitVec 48) : Statement (.sysMark n w) := no_word _
theorem engineInstructionStart (n : Core) (q : QueueId) (hw : HwFault) : Statement (.engineInstructionStart n q hw) := no_word _
theorem stRing (n : Core) (w : BitVec 48) : Statement (.stRing n w) := no_word _
theorem stDesc (n : Core) (w : BitVec 48) : Statement (.stDesc n w) := no_word _
theorem stGo (n : Core) (w : BitVec 48) : Statement (.stGo n w) := no_word _
theorem readRequestIssue (n : Core) (t : Fin 16) : Statement (.readRequestIssue n t) := no_word _
theorem readReplyLand (n : Core) (tag : BitVec 7) (uc : BitVec 4) (e : Ecc) : Statement (.readReplyLand n tag uc e) := no_word _
theorem blockMoveToRing (n : Core) (x : SlotMove) : Statement (.blockMoveToRing n x) := no_word _
theorem writeSlotTake (n : Core) (t : Fin 16) (e : Ecc) : Statement (.writeSlotTake n t e) := no_word _
theorem writeAcknowledge (n : Core) (tag : BitVec 7) (uc : BitVec 4) : Statement (.writeAcknowledge n tag uc) := no_word _
theorem requestTimeLimit (n : Core) (tag : BitVec 7) : Statement (.requestTimeLimit n tag) := no_word _
theorem streamComplete (n : Core) (t : Fin 16) : Statement (.streamComplete n t) := no_word _
theorem nmOpt (n : Core) (w : BitVec 48) : Statement (.nmOpt n w) := no_word _
theorem nmGather (n : Core) (w : BitVec 48) : Statement (.nmGather n w) := no_word _
theorem nmScatter (n : Core) (w : BitVec 48) : Statement (.nmScatter n w) := no_word _
theorem nmShuffle (n : Core) (w : BitVec 48) : Statement (.nmShuffle n w) := no_word _
theorem nmReduce (n : Core) (w : BitVec 48) : Statement (.nmReduce n w) := no_word _
theorem nmQuant (n : Core) (w : BitVec 48) : Statement (.nmQuant n w) := no_word _
theorem nmDequant (n : Core) (w : BitVec 48) : Statement (.nmDequant n w) := no_word _
theorem nmAmax (n : Core) (w : BitVec 48) : Statement (.nmAmax n w) := no_word _
theorem nmCommandStart (n : Core) (e : Ecc) : Statement (.nmCommandStart n e) := no_word _
theorem stackProgressReport (x : StackAct) : Statement (.stackProgressReport x) := no_word _
theorem nmStackReport (k : StackId) (e : Ecc) : Statement (.nmStackReport k e) := no_word _
theorem nmStackSilenceTimeout (n : Core) (k : StackId) : Statement (.nmStackSilenceTimeout n k) := no_word _
theorem mxLoad (n : Core) (w : BitVec 48) : Statement (.mxLoad n w) := no_word _
theorem mxPass (n : Core) (w : BitVec 48) : Statement (.mxPass n w) := no_word _
theorem mxPassComplete (n : Core) : Statement (.mxPassComplete n) := no_word _
theorem mxAg (n : Core) (w : BitVec 48) : Statement (.mxAg n w) := no_word _
theorem mxRs (n : Core) (w : BitVec 48) : Statement (.mxRs n w) := no_word _
theorem fusedComplete (n : Core) : Statement (.fusedComplete n) := no_word _
theorem mxRstat (n : Core) (w : BitVec 48) : Statement (.mxRstat n w) := no_word _
theorem mvDot (n : Core) (w : BitVec 48) : Statement (.mvDot n w) := no_word _
theorem mvDotComplete (n : Core) : Statement (.mvDotComplete n) := no_word _
theorem vxChain (n : Core) (w : BitVec 48) : Statement (.vxChain n w) := no_word _
theorem vxChainComplete (n : Core) : Statement (.vxChainComplete n) := no_word _
theorem vxPerm (n : Core) (w : BitVec 48) : Statement (.vxPerm n w) := no_word _
theorem vxPerm2 (n : Core) (w : BitVec 48) : Statement (.vxPerm2 n w) := no_word _
theorem vxShuf (n : Core) (w : BitVec 48) : Statement (.vxShuf n w) := no_word _
theorem vxCmpr (n : Core) (w : BitVec 48) : Statement (.vxCmpr n w) := no_word _
theorem vxExpd (n : Core) (w : BitVec 48) : Statement (.vxExpd n w) := no_word _
theorem vxPack (n : Core) (w : BitVec 48) : Statement (.vxPack n w) := no_word _
theorem vxUnpk (n : Core) (w : BitVec 48) : Statement (.vxUnpk n w) := no_word _
theorem vxMset (n : Core) (w : BitVec 48) : Statement (.vxMset n w) := no_word _
theorem vxSplat (n : Core) (w : BitVec 48) : Statement (.vxSplat n w) := no_word _
theorem vxFlags (n : Core) (w : BitVec 48) : Statement (.vxFlags n w) := no_word _
theorem clAr (n : Core) (w : BitVec 48) : Statement (.clAr n w) := no_word _
theorem clRs (n : Core) (w : BitVec 48) : Statement (.clRs n w) := no_word _
theorem clAg (n : Core) (w : BitVec 48) : Statement (.clAg n w) := no_word _
theorem clA2a (n : Core) (w : BitVec 48) : Statement (.clA2a n w) := no_word _
theorem clBc (n : Core) (w : BitVec 48) : Statement (.clBc n w) := no_word _
theorem clBar (n : Core) (w : BitVec 48) : Statement (.clBar n w) := no_word _
theorem collectiveStart (n : Core) (e : Ecc) (d : Ecc) : Statement (.collectiveStart n e d) := no_word _
theorem chunkSend (c : Comm) (key : ChunkKey) : Statement (.chunkSend c key) := no_word _
theorem chunkWaitExpiry (c : Comm) (key : ChunkKey) : Statement (.chunkWaitExpiry c key) := no_word _
theorem creditBatchTimer (c : Comm) (src : Coord) : Statement (.creditBatchTimer c src) := no_word _
theorem chunkReceive (p : Port) (k : Packet) : Statement (.chunkReceive p k) := no_word _
theorem creditReceive (p : Port) (k : Packet) : Statement (.creditReceive p k) := no_word _
theorem rereqReceive (p : Port) (k : Packet) : Statement (.rereqReceive p k) := no_word _
theorem ctrlArriveReceive (p : Port) (k : Packet) : Statement (.ctrlArriveReceive p k) := no_word _
theorem ctrlVoteReceive (p : Port) (k : Packet) : Statement (.ctrlVoteReceive p k) := no_word _
theorem ctrlAbortReceive (p : Port) (k : Packet) : Statement (.ctrlAbortReceive p k) := no_word _
theorem stepVoteReceive (p : Port) (k : Packet) : Statement (.stepVoteReceive p k) := no_word _
theorem stepSealReceive (p : Port) (k : Packet) : Statement (.stepSealReceive p k) := no_word _
theorem stepResendReceive (p : Port) (k : Packet) : Statement (.stepResendReceive p k) := no_word _
theorem stepDigestReceive (p : Port) (k : Packet) : Statement (.stepDigestReceive p k) := no_word _
theorem voteWaitExpiry (peer : Coord) : Statement (.voteWaitExpiry peer) := no_word _
theorem cleDecideCommit (epoch : BitVec 32) (attempt : BitVec 8) (result : BitVec 16) : Statement (.cleDecideCommit epoch attempt result) := no_word _
theorem cleDecideAbort (epoch : BitVec 32) (attempt : BitVec 8) (result : BitVec 16) : Statement (.cleDecideAbort epoch attempt result) := no_word _
theorem stackDecisionAct (x : StackAct) : Statement (.stackDecisionAct x) := no_word _
theorem commitFinish : Statement .commitFinish := no_word _
theorem epochSettle (x : StackAct) : Statement (.epochSettle x) := no_word _
theorem inboundReadReceive (p : Port) (k : Packet) : Statement (.inboundReadReceive p k) := no_word _
theorem inboundWriteReceive (p : Port) (k : Packet) : Statement (.inboundWriteReceive p k) := no_word _
theorem inboundReplySend (e : Ecc) : Statement (.inboundReplySend e) := no_word _
theorem readRspReceive (p : Port) (k : Packet) : Statement (.readRspReceive p k) := no_word _
theorem writeAckReceive (p : Port) (k : Packet) : Statement (.writeAckReceive p k) := no_word _
theorem noticeReceive (p : Port) (k : Packet) : Statement (.noticeReceive p k) := no_word _
theorem transitPacketReceive (p : Port) (k : Packet) : Statement (.transitPacketReceive p k) := no_word _
theorem packetTransmit (p : Port) (e : Ecc) : Statement (.packetTransmit p e) := no_word _
theorem linkCreditReturn (p : Port) (vc : Fin 8) : Statement (.linkCreditReturn p vc) := no_word _
theorem identityFrameSend (p : Port) (farLane : BitVec 4) (farCsym : BitVec 16) : Statement (.identityFrameSend p farLane farCsym) := no_word _
theorem identityFrameReceive (p : Port) (frame : List Byte) : Statement (.identityFrameReceive p frame) := no_word _
theorem portTrainingComplete (p : Port) (mask : BitVec 8) : Statement (.portTrainingComplete p mask) := no_word _
theorem trainingTimeout (p : Port) : Statement (.trainingTimeout p) := no_word _
theorem identifyTimeout (p : Port) : Statement (.identifyTimeout p) := no_word _
theorem autoRetrainTimer (p : Port) : Statement (.autoRetrainTimer p) := no_word _
theorem laneLossOfLock (p : Port) : Statement (.laneLossOfLock p) := no_word _
theorem fecErrorLimit (x : LinkErrors) : Statement (.fecErrorLimit x) := no_word _
theorem fabLaneApply : Statement .fabLaneApply := no_word _
theorem fabClrCnt : Statement .fabClrCnt := no_word _
theorem fabInjectStop (on : Bool) : Statement (.fabInjectStop on) := no_word _
theorem fabTopoWrite (v : Word) : Statement (.fabTopoWrite v) := no_word _
theorem fabFenceSet (token : BitVec 24) : Statement (.fabFenceSet token) := no_word _
theorem fabFenceClear (token : BitVec 24) : Statement (.fabFenceClear token) := no_word _
theorem fabNoticeWrite (v : Word) : Statement (.fabNoticeWrite v) := no_word _
theorem fabFtblWrite (k : Fin 16) (v : Word) : Statement (.fabFtblWrite k v) := no_word _
theorem fabLastWrite (p : Port) (v : Word) : Statement (.fabLastWrite p v) := no_word _
theorem fabPortRetrain (p : Port) : Statement (.fabPortRetrain p) := no_word _
theorem fabPortIdent (p : Port) : Statement (.fabPortIdent p) := no_word _
theorem fabPortDisable (p : Port) (on : Bool) : Statement (.fabPortDisable p on) := no_word _
theorem wltApply : Statement .wltApply := no_word _
theorem wltClrCnt : Statement .wltClrCnt := no_word _
theorem wltClrPeak : Statement .wltClrPeak := no_word _
theorem weltBlockGrant (c : WeltClass) : Statement (.weltBlockGrant c) := no_word _
theorem weltScrubBeat (bank : BitVec 11) (e : Ecc × Ecc) : Statement (.weltScrubBeat bank e) := no_word _
theorem insApply : Statement .insApply := no_word _
theorem insReset (k : StackId) (clear : Bool) : Statement (.insReset k clear) := no_word _
theorem stackResetReturn (k : StackId) : Statement (.stackResetReturn k) := no_word _
theorem insClrCnt (k : StackId) : Statement (.insClrCnt k) := no_word _
theorem insScrubLine (k : StackId) (line : BitVec 30) (e : Ecc) : Statement (.insScrubLine k line e) := no_word _
theorem rowSpare (k : StackId) (spareLeft : Bool) : Statement (.rowSpare k spareLeft) := no_word _
theorem stackRefresh (k : StackId) : Statement (.stackRefresh k) := no_word _
theorem stackThrottleChange (k : StackId) (temp : BitVec 8) : Statement (.stackThrottleChange k temp) := no_word _
theorem stackChannelRecal (k : StackId) (ch : Fin 16) : Statement (.stackChannelRecal k ch) := no_word _
theorem fabricLaneRecal (p : Port) : Statement (.fabricLaneRecal p) := no_word _
theorem coreLaunchStart (n : Core) (level : BitVec 8) (voter : Bool) : Statement (.coreLaunchStart n level voter) := no_word _
theorem coreLaunchStop (n : Core) : Statement (.coreLaunchStop n) := no_word _
theorem coreStopQuiesced (n : Core) : Statement (.coreStopQuiesced n) := no_word _
theorem coreSrkeyWrite (n : Core) (v : Word) : Statement (.coreSrkeyWrite n v) := no_word _
theorem coreSrepochWrite (n : Core) (v : BitVec 32) : Statement (.coreSrepochWrite n v) := no_word _
theorem insSrkeyWrite (k : StackId) (v : Word) : Statement (.insSrkeyWrite k v) := no_word _
theorem insSrepochWrite (k : StackId) (v : BitVec 32) : Statement (.insSrepochWrite k v) := no_word _
theorem cleApply (cdef : Comm) : Statement (.cleApply cdef) := no_word _
theorem cleClrCnt : Statement .cleClrCnt := no_word _
theorem cleStepcfgWrite (grp : Bool) (v : Word) : Statement (.cleStepcfgWrite grp v) := no_word _
theorem cleShadowModeWrite (mode : BitVec 2) : Statement (.cleShadowModeWrite mode) := no_word _
theorem awlRewind : Statement .awlRewind := no_word _
theorem ingGo : Statement .ingGo := no_word _
theorem ingStop : Statement .ingStop := no_word _
theorem ingResume : Statement .ingResume := no_word _
theorem ingClrCnt : Statement .ingClrCnt := no_word _
theorem ingPortReset (p : Port) : Statement (.ingPortReset p) := no_word _
theorem roceResponseReceive (c : Conn) (data : List Byte) (ce : Bool) : Statement (.roceResponseReceive c data ce) := no_word _
theorem rdmaReadSend (c : Conn) : Statement (.rdmaReadSend c) := no_word _
theorem roceRetryTimeout (c : Conn) : Statement (.roceRetryTimeout c) := no_word _
theorem rdmaRequestReceive (x : PortFrame) : Statement (.rdmaRequestReceive x) := no_word _
theorem ccFrameReceive (p : Port) (frame : List Byte) : Statement (.ccFrameReceive p frame) := no_word _
theorem ccFrameTransmit : Statement .ccFrameTransmit := no_word _
theorem pfcFrameReceive (p : Port) (prios : BitVec 8) (time : Nat) : Statement (.pfcFrameReceive p prios time) := no_word _
theorem ethernetFrameDiscard (x : PortFrame) : Statement (.ethernetFrameDiscard x) := no_word _
theorem lldpSend (p : Port) : Statement (.lldpSend p) := no_word _
theorem ethernetLinkChange (p : Port) (up : Bool) : Statement (.ethernetLinkChange p up) := no_word _
theorem segmentDecodeComplete (d : Decoded) : Statement (.segmentDecodeComplete d) := no_word _
theorem batchReady : Statement .batchReady := no_word _
theorem loaderPositionWrite : Statement .loaderPositionWrite := no_word _
theorem ctxRingWrite (tx : Bool) (v : Word) : Statement (.ctxRingWrite tx v) := no_word _
theorem ctxRxidxTailWrite (v : BitVec 16) : Statement (.ctxRxidxTailWrite v) := no_word _
theorem ctxTxidxTailWrite (v : BitVec 16) : Statement (.ctxTxidxTailWrite v) := no_word _
theorem ctxReset : Statement .ctxReset := no_word _
theorem ccMemoryAccess (h : Hart) (a : Access) : Statement (.ccMemoryAccess h a) := no_word _
theorem clkJobEnter : Statement .clkJobEnter := no_word _
theorem clkJobLeave : Statement .clkJobLeave := no_word _
theorem clkFreqWrite (cclk : BitVec 8) (aclk : BitVec 5) : Statement (.clkFreqWrite cclk aclk) := no_word _
theorem clkClupolWrite (v : BitVec 8) : Statement (.clkClupolWrite v) := no_word _
theorem clkTimeWrite (v : Word) : Statement (.clkTimeWrite v) := no_word _
theorem clkTstepWrite (v : Word) : Statement (.clkTstepWrite v) := no_word _
theorem clockLimitStep : Statement .clockLimitStep := no_word _
theorem clusterClockGate (c : Cluster) : Statement (.clusterClockGate c) := no_word _
theorem clusterPowerGate (c : Cluster) : Statement (.clusterPowerGate c) := no_word _
theorem clusterWake (c : Cluster) : Statement (.clusterWake c) := no_word _
theorem rrefLoss : Statement .rrefLoss := no_word _
theorem pllLockLoss : Statement .pllLockLoss := no_word _
theorem awlFreezeWrite : Statement .awlFreezeWrite := no_word _
theorem frzNRelease : Statement .frzNRelease := no_word _
theorem frzNLow : Statement .frzNLow := no_word _
theorem powerOnReset : Statement .powerOnReset := no_word _
theorem v33Loss : Statement .v33Loss := no_word _
theorem rstNAssert : Statement .rstNAssert := no_word _
theorem rstNRelease : Statement .rstNRelease := no_word _
theorem startUpSequence (env : StartEnv) : Statement (.startUpSequence env) := no_word _
theorem startUpRetry (env : StartEnv) : Statement (.startUpRetry env) := no_word _
theorem sensorSample (x : Sensors) : Statement (.sensorSample x) := no_word _
theorem voltageComparatorTrip (r : Rail) : Statement (.voltageComparatorTrip r) := no_word _
theorem cobblerLockstepMismatch : Statement .cobblerLockstepMismatch := no_word _
theorem cobblerBoot : Statement .cobblerBoot := no_word _
theorem healthRecordFlush : Statement .healthRecordFlush := no_word _
theorem eventMirrorWrite : Statement .eventMirrorWrite := no_word _
theorem awlHeldRecordDelivery : Statement .awlHeldRecordDelivery := no_word _
theorem mgmtSessionConnect (cert : List Byte) : Statement (.mgmtSessionConnect cert) := no_word _
theorem mgmtUnknownCommand (c : Client) (code : BitVec 16) (tag : BitVec 16) : Statement (.mgmtUnknownCommand c code tag) := no_word _
theorem getInfo (c : Client) (tag : BitVec 16) : Statement (.getInfo c tag) := no_word _
theorem getQuote (c : Client) (tag : BitVec 16) (nonce : List Byte) : Statement (.getQuote c tag nonce) := no_word _
theorem getCerts (c : Client) (tag : BitVec 16) : Statement (.getCerts c tag) := no_word _
theorem readLog (c : Client) (tag : BitVec 16) (seq : Nat) : Statement (.readLog c tag seq) := no_word _
theorem readSensors (c : Client) (tag : BitVec 16) : Statement (.readSensors c tag) := no_word _
theorem readHealth (c : Client) (tag : BitVec 16) : Statement (.readHealth c tag) := no_word _
theorem fwWrite (c : Client) (tag : BitVec 16) (offset : Nat) (data : List Byte) : Statement (.fwWrite c tag offset data) := no_word _
theorem fwVerify (c : Client) (tag : BitVec 16) : Statement (.fwVerify c tag) := no_word _
theorem fwActivate (c : Client) (tag : BitVec 16) : Statement (.fwActivate c tag) := no_word _
theorem fwCommit (c : Client) (tag : BitVec 16) : Statement (.fwCommit c tag) := no_word _
theorem fwLock (c : Client) (tag : BitVec 16) : Statement (.fwLock c tag) := no_word _
theorem fwRevoke (c : Client) (tag : BitVec 16) (slot : Nat) : Statement (.fwRevoke c tag slot) := no_word _
theorem fuseGen (c : Client) (tag : BitVec 16) (block : List Byte) (good : Bool) : Statement (.fuseGen c tag block good) := no_word _
theorem setLast (c : Client) (tag : BitVec 16) (entries : List (Port × Word)) : Statement (.setLast c tag entries) := no_word _
theorem measure (c : Client) (tag : BitVec 16) (m : Nat) (digest : List Byte) : Statement (.measure c tag m digest) := no_word _
theorem resetUnit (c : Client) (tag : BitVec 16) (u : ResetUnit) : Statement (.resetUnit c tag u) := no_word _
theorem power (c : Client) (tag : BitVec 16) (on : Bool) : Statement (.power c tag on) := no_word _
theorem selfTest (c : Client) (tag : BitVec 16) (t : SelfTest) (pass : Bool) : Statement (.selfTest c tag t pass) := no_word _
theorem freeze (c : Client) (tag : BitVec 16) : Statement (.freeze c tag) := no_word _
theorem readFrozen (c : Client) (tag : BitVec 16) (space : Nat) (u : Nat) (offset : Nat) (len : Nat) (bad : List Nat) : Statement (.readFrozen c tag space u offset len bad) := no_word _
theorem cblDoorbell : Statement .cblDoorbell := no_word _
theorem cblAck : Statement .cblAck := no_word _
theorem unitResetSettleEnd (u : ResetUnit) : Statement (.unitResetSettleEnd u) := no_word _
theorem unitResetReturn (u : ResetUnit) : Statement (.unitResetReturn u) := no_word _
theorem settleTimeout (u : ResetUnit) : Statement (.settleTimeout u) := no_word _
theorem stackReturnTimeout (k : StackId) : Statement (.stackReturnTimeout k) := no_word _
theorem registerWrite (addr : Word) (v : Word) : Statement (.registerWrite addr v) := no_word _
theorem pfcPauseExpiry (p : Port) (prios : BitVec 8) : Statement (.pfcPauseExpiry p prios) := no_word _
theorem clusterWakeComplete (c : Cluster) : Statement (.clusterWakeComplete c) := no_word _
theorem ingPortDisable (p : Port) (on : Bool) : Statement (.ingPortDisable p on) := no_word _

end Sys2Proof.Laws.Encoding
end

