-- ==== Sys2Proof/Tests/Slice0.lean ====
section
/-! SUPPORT. The model's own tests: a state that meets the premises of each statement, an ill-formed term for each check of
WellFormed, and single steps on small states with values taken from the spec. -/

namespace Sys2Proof.Tests

open Sys2Proof.Machine

-- One theorem at a time: a proof by the kernel waits for the theorems before it, each waiting on a thread of its own.
set_option Elab.async false

/-! ### States to test on -/

/-- A part that runs a job, with core 0 running at address 0 and changed by f. -/
def up (f : CoreSt → CoreSt) : State :=
  let s := State.reset
  { s with
    cores := vput s.cores 0 (f { CoreSt.reset with reg := { CoreRegs.reset with run := .running }, ibuf := [0] })
    ctx := { s.ctx with running := true }
    clk := { s.clk with state := .active, lock := true, locked := true, rref := true, stages := true, upStep := 0 } }

/-- A word with v from bit lo up. -/
def fieldAt (lo v : Nat) : BitVec 48 := BitVec.ofNat 48 (v * 2 ^ lo)

/-- Core 0 with the scalars a, from s1 on. -/
def withS (a : List Word) (c : CoreSt) : CoreSt :=
  { c with arch := a.zipIdx.foldl (fun r x => r.setS (x.2 + 1) x.1) c.arch }

/-- An issued instruction with word w and scalar a. -/
def entry (op : EngOp) (w : BitVec 48) (a : Word) : QEntry :=
  { id := 0, op := op, w := w, a := a, b := 0, c := 0, pc := 0, act := true }

/-- The instruction e at the head of the ST queue. -/
def inSt (e : QEntry) (c : CoreSt) : CoreSt := { c with stq := { waiting := [e], running := [] }, nextId := 1 }

/-- A started instruction that has ended with st. -/
def ended (e : QEntry) (st : Status) : RunEntry :=
  { e := e, hw := .sound, g := Progress.zero, status := some st }

/-- No hardware error. -/
def sound : HwFault := .sound

theorem reset_noEpoch : ∀ a, InsMap.reset.isEpoch a = false := by
  intro a
  simp [InsMap.isEpoch, InsMap.reset, Epr.reset]

/-! ### Premises: the queue and scalar instructions -/

theorem wit_StepRunsTheFrontCommand : ({ State.reset with pending := [.sysNop 0 0] } : State).pending = .sysNop 0 0 :: [] := rfl
theorem wit_CommandsLeaveTheQueue : ∃ t, exec .fabClrCnt State.reset = .next t := ⟨_, rfl⟩
theorem wit_ScalarArithmetic_register : (up id).canIssue 0 = true ∧ bitsOf (fieldAt 42 3) 29 0 = 0 ∧ bitsOf (fieldAt 29 1) 29 0 ≠ 0 := by
  decide
theorem wit_ScalarArithmetic_immediate : (up id).canIssue 0 = true ∧ bitsOf (fieldAt 0 63) 35 32 = 0 ∧ bitsOf (fieldAt 0 63) 31 0 = 63 ∧
    bitsOf (fieldAt 0 64) 31 0 = 64 ∧ bitsOf (fieldAt 36 1) 41 36 ≠ 0 := by decide
theorem wit_ScalarMemory_offsets : (up id).canIssue 0 = true ∧ bitsOf (fieldAt 0 0x800000) 35 32 = 0 ∧
    scalarOffset CoreArch.reset (fieldAt 0 0x7FFFF8) = 0x7FFFF8 ∧ scalarOffset CoreArch.reset (fieldAt 0 0x800000) = 0x800000 ∧
    scalarOffset CoreArch.reset (fieldAt 0 0x7FFFFF) % 2 ≠ 0 := by decide
theorem wit_ScalarMemory_poisoned :
    0x7FFFF8 / 16 ∈ ((up fun c => { c with arch := { c.arch with scratchPoison := [0x7FFFF] } }).core 0).arch.scratchPoison ∧
      (0x7FFFF8 / 16 ∉ ((up id).core 0).arch.scratchPoison) := by decide
theorem wit_ScalarMemory_store : MemoriesWf (up id) ∧ (up id).canIssue 0 = true := by unfold MemoriesWf; decide
theorem wit_PredicatesAndBranches_predicates : (up id).canIssue 0 = true ∧
    (let w := fieldAt 35 5 ||| fieldAt 45 7; bitsOf w 44 39 = 0 ∧ bitsOf w 22 0 = 0 ∧ bitsOf w 28 16 = 0 ∧ bitsOf w 38 35 = 5) ∧
    (let w := fieldAt 35 6; bitsOf w 44 39 = 0 ∧ bitsOf w 22 0 = 0 ∧ bitsOf w 28 16 = 0 ∧ bitsOf w 38 35 = 6) ∧
    bitsOf (fieldAt 35 8) 34 0 = 0 := by decide
/-- Taken, not taken, misaligned, beyond the Insole, and linking. -/
theorem wit_PredicatesAndBranches_branches :
    let s := up (withS [4, 0x180000000000])
    let a := (s.core 0).arch
    s.canIssue 0 = true ∧ a.pred 0 ≠ (fieldAt 0 1).getLsbD 47 ∧ a.pred 1 = (fieldAt 44 1).getLsbD 47 ∧
      (a.sreg 1).toNat % 8 ≠ 0 ∧ (a.sreg 2).toNat % 8 = 0 ∧ s.inCode (a.sreg 2).toNat = false ∧ s.inCode (a.sreg 0).toNat = true ∧
      bitsOf (fieldAt 0 1) 43 32 = 0 ∧ bitsOf (fieldAt 32 1) 43 38 = 0 ∧ bitsOf (fieldAt 32 1) 31 0 = 0 ∧
      bitsOf (fieldAt 38 1) 37 32 = 0 := by decide
/-- A count that is there, one that is not, and a full semaphore. -/
theorem wit_SemaphoresAndFences :
    let s := up fun c => { c with arch := (c.arch.setSem 1 { count := 65535, status := .ok }), mx := { waiting := [entry .mxLoad 0 0], running := [] } }
    let a := (s.core 0).arch
    s.canIssue 0 = true ∧ bitsOf (fieldAt 0 65535) 35 16 = 0 ∧ bitsOf (fieldAt 0 65535) 15 0 ≤ (a.semOf 1).count.toNat ∧
      ¬ bitsOf (fieldAt 0 1) 15 0 ≤ (a.semOf 0).count.toNat ∧ (a.semOf 1).count = 65535 ∧ (a.semOf 0).count ≠ 65535 ∧
      bitsOf (fieldAt 36 1) 47 42 = 0 ∧ bitsOf (fieldAt 36 1) 35 0 = 0 ∧ bitsOf (fieldAt 0 31) 47 5 = 0 ∧ (s.core 0).mx.idle = false ∧
      (s.core 0).cl.idle = true := by decide
theorem wit_HoldsEnd_semWait :
    let s := up fun c => { c with hold := .semWait 1 2 0 }
    s.live 0 = true ∧ (s.core 0).hold = .semWait 1 2 0 ∧ (0 : BitVec 16).toNat ≤ ((s.core 0).arch.semOf 2).count.toNat := by decide
theorem wit_HoldsEnd_fence :
    let s := up fun c => { c with hold := .fence 31 }
    s.live 0 = true ∧ (s.core 0).hold = .fence 31 ∧ (s.core 0).allIdle = true := by decide
theorem wit_HoldsEnd_place :
    let e := entry .stGo 0 0
    let s := up fun c => { c with hold := .place .st e, stq := { waiting := List.replicate 15 e, running := [] } }
    let t := up fun c => { c with hold := .place .st e, stq := { waiting := List.replicate 16 e, running := [] } }
    s.live 0 = true ∧ (s.core 0).hold = .place .st e ∧ (e.op.clSide.isSome = true → QueueId.st = .mx) ∧
      (s.core 0).hasPlace .st e = true ∧ (t.core 0).hasPlace .st e = false := by decide
theorem wit_HoldsEnd_line :
    let s := up fun c => { c with hold := .line 1 }
    s.live 0 = true ∧ (s.core 0).hold = .line 1 ∧ s.clk.gate[clusterOf 0] = .on ∧ s.inCode ((1 : BitVec 58).toNat * 64) = true ∧
      s.serves ((1 : BitVec 58).toNat * 64) = true ∧ s.anyPoison false ((1 : BitVec 58).toNat * 64) 64 = false := by decide

/-! ### Premises: regions, step votes, system instructions -/

/-- An open region of a core. -/
def region (c : CoreSt) : Region :=
  { id := 1, vote := false, careful := false, limit := 2, voteComm := 0, rd := [], wr := [], r := 0, first := none, nan := false
    overflow := false, voteResult := none
    snap := { s := c.arch.s, p := c.arch.p, v := [], m := c.arch.m, sem := c.arch.sem, st := c.arch.st, seq := [], pc := 8 } }

/-- A communicator of core 0: one axis, two parts. -/
def commWord : Word := fields [(0, 0x10)]

theorem wit_RegionInstructions_open :
    let s := up (withS [4])
    s.canIssue 0 = true ∧ bitsOf (fieldAt 36 1) 47 42 = 0 ∧ bitsOf (fieldAt 36 1) 35 0 = 0 ∧ ((s.core 0).arch.sreg 1).toNat % 8 ≠ 0 ∧
      ((s.core 0).arch.sreg 0).toNat % 8 = 0 ∧ (s.core 0).region.isSome = false := by decide
theorem wit_RegionInstructions_close :
    let s := up fun c => { c with region := some (region c) }
    let t := up fun c => { c with region := some { region c with vote := true } }
    s.canIssue 0 = true ∧ bitsOf (fieldAt 42 1) 41 0 = 0 ∧ (s.core 0).allIdle = true ∧ (s.core 0).region.isSome = true ∧ t.canIssue 0 = true ∧
      (t.core 0).allIdle = true ∧ t.commOn 0 = none := by decide
/-- The vote of a region whose communicator is bound to the core. -/
theorem wit_RegionInstructions_bound :
    let s := { up (fun c => { c with region := some { region c with vote := true } }) with
      coll := { Coll.reset with comms := [(0, { CommSt.reset with on := some (0, 1) })] } }
    s.canIssue 0 = true ∧ s.commOn 0 = some (0, 1) ∧ commCore 0 = 0 ∧ ∀ b ∈ s.coll.active, b.comm ≠ 0 := by decide
theorem wit_RegionsOpenAndClose_open :
    let o := 0x7FFF78
    let s := up fun c => { c with hold := .lyrOpen (BitVec.ofNat 64 (scratchAddr 0 o)) }
    s.live 0 = true ∧ (s.core 0).hold = .lyrOpen (BitVec.ofNat 64 (scratchAddr 0 o)) ∧ (s.core 0).allIdle = true ∧ o + 136 ≤ 0x800000 ∧
      (s.core 0).arch.scratchPoison = [] ∧ (let raw := List.replicate 136 0; regionResv raw = true ∧ regionOk raw = true) ∧
      regionResv (List.replicate 136 0xFF) = false ∧ (let raw := (List.replicate 136 0).set 3 4; regionResv raw = true ∧ regionOk raw = false) := by
  decide
theorem wit_RegionsOpenAndClose_close :
    let s := up fun c => { c with hold := .closing 3, region := some { region c with overflow := true } }
    s.live 0 = true ∧ (s.core 0).hold = .closing 3 ∧ (s.core 0).region = some { region (s.core 0) with overflow := true } ∧ s.ing.later = 0 ∧
      s.awl.onNan = false := by decide
theorem wit_StepVotes_issue : (up id).canIssue 0 = true ∧ bitsOf (fieldAt 42 1) 41 0 = 0 ∧ bitsOf (0 : BitVec 48) 47 0 = 0 ∧
    ((up fun c => { c with voteSince := true }).core 0).voteSince = true ∧ ((up id).core 0).voteSince = false := by decide
theorem wit_StepVotes_contribute :
    let v := fun (c : CoreSt) => { c with isVoter := true }
    let s := { up (fun c => { v c with hold := .stepVote }) with
      cores := vput (up (fun c => { v c with hold := .stepVote })).cores 1 (v { CoreSt.reset with reg := { CoreRegs.reset with run := .running } }) }
    s.live 0 = true ∧ (s.core 0).allIdle = true ∧ (s.core 0).hold = .stepVote ∧ s.step.flagSent = false ∧
      ∃ m, m ≠ (0 : Core) ∧ (s.core m).votes = true ∧ (s.core m).voted = false ∧ (s.core m).byState = false := by decide
theorem wit_StepVotes_seal :
    let s := { up (fun c => { c with hold := .stepCommit 2, voted := true, isVoter := true }) with
      step := { StepUnit.reset with flagSent := true } }
    s.live 0 = true ∧ (s.core 0).allIdle = true ∧ (s.core 0).hold = .stepCommit 2 ∧ (s.core 0).voted = true ∧ s.step.flagSent = true ∧
      s.step.flagDone = false := by decide
theorem wit_SystemInstructions_issue : (up id).canIssue 0 = true ∧ bitsOf (fieldAt 42 63) 41 0 = 0 ∧ bitsOf (fieldAt 0 65535) 47 16 = 0 := by
  decide
theorem wit_SystemInstructions_halt :
    let s := { up (fun c => { c with hold := .halt 7 }) with step := { StepUnit.reset with flagSent := true } }
    s.live 0 = true ∧ (s.core 0).allIdle = true ∧ (s.core 0).hold = .halt 7 ∧ s.step.flagSent = true ∧ s.step.flagDone = false := by decide

/-! ### Premises: engine instructions and streams -/

/-- Scalars that the words of engineWords name. -/
def engineScalars : List Word := [3, 0x20, 0x800000000000, 0x50000]

/-- One word for each of engineForms, in its order, that its rules accept. -/
def engineWords : List (BitVec 48) :=
  [fieldAt 38 1, fieldAt 38 1, fieldAt 38 1] ++ List.replicate 14 (fieldAt 38 1) ++
    [fieldAt 35 5, 0, fieldAt 36 2, fieldAt 42 1 ||| fieldAt 36 3, 0, fieldAt 31 4] ++ List.replicate 11 0

theorem wit_EngineInstructionsQueue : (up (withS engineScalars)).canIssue 0 = true ∧ engineWords.length = engineForms.length ∧
    (engineForms.zip engineWords).all (fun x => x.1.ok ((up (withS engineScalars)).core 0).arch x.2) = true := by decide
/-- Fifteen instructions wait, and sixteen. -/
theorem wit_EngineInstructionsQueue_room :
    ((up fun c => { c with stq := { waiting := List.replicate 15 (entry .stGo 0 0), running := [] } }).core 0).stq.waiting.length < 16 ∧
    ¬ ((up fun c => { c with stq := { waiting := List.replicate 16 (entry .stGo 0 0), running := [] } }).core 0).stq.waiting.length < 16 := by
  decide
theorem wit_FalsePredicateOnlySignals :
    let e := { entry .stGo 0 0 with act := false }
    MayTake (up (inSt e)) 0 .st e [] ∧ e.act = false := by unfold MayTake NothingStarted SignalFits; decide
theorem wit_FalsePredicateOnlySignals_waits :
    let e := entry .stGo (fieldAt 10 1) 0
    let s := up (inSt e)
    ((s.core 0).queue .st).waiting = [e] ∧ headWait e > ((s.core 0).arch.semOf (tailWsem e.w)).count.toNat := by decide
theorem wit_EngineInstructionsStart_ring :
    let e := entry .stRing (fieldAt 44 15) 16
    let s := up (inSt e)
    MayTake s 0 .st e [] ∧ e.act = true ∧ ((s.core 0).arch.ringOf 15).idle = true := by
  unfold MayTake NothingStarted SignalFits; decide
theorem wit_EngineInstructionsStart_desc :
    let e := entry .stDesc 0 0x7FFFA0
    let s := up (inSt e)
    MayTake s 0 .st e [] ∧ e.act = true ∧ ((s.core 0).arch.stOf 0).active = false ∧ e.a.toNat % 16 = 0 ∧ e.a.toNat + 96 ≤ 0x800000 ∧
      sound.descEcc = .clean ∧ (s.core 0).arch.scratchPoison = [] ∧ ∀ y ∈ (s.core 0).stale, y.1 ≤ e.id := by
  unfold MayTake NothingStarted SignalFits; decide

/-- A stream of 16 bytes from address 0, in memory order. -/
def stream (writes : Bool) : Stream :=
  { Stream.reset with ctl := fields [(26, b2n writes)], stride := [1, 0, 0, 0, 0], count := [16, 0, 0, 0, 0] }

/-- Stream 0 of a core. -/
def withStream (x : Stream) (c : CoreSt) : CoreSt := { c with arch := { c.arch with st := vput c.arch.st 0 x } }

theorem wit_EngineInstructionsStart_go :
    let e := entry .stGo 0 0
    let s := up fun c => inSt e (withStream (stream false) c)
    let t := up fun c => inSt e (withStream (stream true) c)
    MayTake s 0 .st e [] ∧ (s.core 0).stMayStart e = true ∧ s.goCheck 0 { (s.core 0).arch.stOf 0 with off := e.a } = none ∧
      ((s.core 0).arch.stOf 0).writes = false ∧ MayTake t 0 .st e [] ∧ (t.core 0).stMayStart e = true ∧
      t.goCheck 0 { (t.core 0).arch.stOf 0 with off := e.a } = none ∧ ((t.core 0).arch.stOf 0).writes = true := by
  unfold MayTake NothingStarted SignalFits; decide
theorem wit_EngineInstructionsStart_registers :
    let e := entry .vxSplat (fieldAt 43 31) 7
    let f := entry .vxMset (fieldAt 45 7) 0
    let s := fun (e : QEntry) => up fun c => { c with vx := { waiting := [e], running := [] } }
    MayTake (s e) 0 .vx e [] ∧ ((s e).core 0).mv.waiting = [] ∧ SMap.wf 0 ((s e).core 0).arch.v = true ∧ MayTake (s f) 0 .vx f [] := by
  unfold MayTake NothingStarted SignalFits; decide

/-- A request of the first k elements of a stream under tag. -/
def req (tag k : Nat) (done : Bool) : Req :=
  { first := 0, cnt := k, tag := tag, uc := 0, need := 1, done := done, data := if done then List.replicate k 7 else [], status := .ok }

theorem wit_ReadStreams_issue :
    let s := up (withStream { stream false with active := true })
    let c := s.core 0
    let x := c.arch.stOf 0
    s.fastOn = true ∧ RunsLocally s 0 x false ∧ x.next < x.total ∧ c.lead x < (c.arch.ringOf x.ring).nslots.toNat + 16 ∧
      c.freeTag x = some 0 ∧ s.turnOf 0 0 = true ∧ (s.welt.claim .mem (blockFor 0 0)).2 = some false := by unfold RunsLocally; decide
/-- A reply of a request that was accepted, of one that was refused, and of one whose stack has been reset since. -/
theorem wit_ReadStreams_reply : ∀ q ∈ [(Status.ok, (0 : BitVec 4)), (.refusedReset, 0), (.ok, 1)],
    let r := { req 63 16 false with status := q.1, via := [(16, q.2)] }
    let s := up fun c => withStream { stream false with active := true, next := 16, reqs := [r] } { c with tags := [(63, 0, 0)] }
    let c := s.core 0
    let x := c.arch.stOf 0
    (c.tags.find? fun y => y.1 == 63) = some (63, 0, r.first) ∧ (x.reqs.find? fun y => y.first == r.first) = some r ∧
      vgetD c.tagUse 63 0 = 0 ∧ RunsLocally s 0 x false ∧ 0 < r.cnt ∧ r.status = q.1 ∧ s.sameEpochs r.via = decide (q.2 = 0) ∧
      ∀ i < r.cnt, s.serves (addrLocal (x.elem (r.first + i))) = true ∧ s.anyPoison false (addrLocal (x.elem (r.first + i))) x.esize = false := by
  unfold RunsLocally; decide
theorem wit_BlocksMoveIntoRings :
    let r := req 0 16 true
    let s := up (withStream { stream false with active := true, next := 16, reqs := [r] })
    let c := s.core 0
    let x := c.arch.stOf 0
    let g := c.arch.ringOf x.ring
    s.fastOn = true ∧ MemoriesWf s ∧ RunsLocally s 0 x false ∧ x.reqs = [r] ∧ r.done = true ∧ r.status = .ok ∧ g.hasRoom = true ∧
      g.tail < g.slots.length ∧ r.data.length ≤ 4096 ∧ g.slotOff g.tail + 4096 ≤ 0x800000 ∧ c.arch.scratchPoison = [] ∧ NothingStarted s 0 ∧ r.blk = some false := by
  unfold MemoriesWf RunsLocally NothingStarted; decide
theorem wit_WriteStreams_acknowledge : ∀ epoch ∈ [(0 : BitVec 4), 1],
    let r := { req 64 16 false with via := [(16, epoch)] }
    let s := up fun c => withStream { stream true with active := true, next := 16, reqs := [r] } { c with tags := [(64, 0, 0)] }
    let c := s.core 0
    s.fastOn = true ∧ RunsLocally s 0 (c.arch.stOf 0) true ∧ vgetD c.tagUse 64 0 = 0 ∧
      (c.tags.find? fun y => y.1 == 64) = some (64, 0, r.first) ∧ (c.arch.stOf 0).reqs = [r] ∧ r.need = 1 ∧ r.status = .ok ∧
      r.blk = some false ∧ s.sameEpochs r.via = decide (epoch = 0) := by
  unfold RunsLocally; decide
theorem wit_WriteStreams_end :
    let y := { ended (entry .stGo (fieldAt 20 1) 0) .ok with status := none }
    let s := up fun c => withStream { stream false with active := true, next := 16 } { c with stq := { waiting := [], running := [y] } }
    let c := s.core 0
    let x := c.arch.stOf 0
    RunsLocally s 0 x false ∧ x.reqs = [] ∧ x.failed = none ∧ x.next ≥ x.total ∧ x.soft = false ∧ (c.stq.running.find? fun z => z.e.id == x.id) = some y ∧
      y.e.op = .stGo ∧ tailWcnt y.e.w = 0 ∧ SignalFits c.arch y.e ∧ NothingStarted s 0 := by
  unfold RunsLocally SignalFits NothingStarted; decide
theorem wit_WriteStreams_take :
    let slot : Slot := { st := .full, cnt := 16, eos := false, owner := 9 }
    let s := up fun c => withStream { stream true with active := true }
      { c with arch := { c.arch with ring := vmod c.arch.ring 0 fun g => { g with slots := slot :: g.slots.drop 1, tail := 1 } } }
    let c := s.core 0
    let x := c.arch.stOf 0
    let g := c.arch.ringOf x.ring
    let k := reqLen x x.next (max x.esize ((g.slot g.head).cnt - g.rpos)) 0 4096
    let took := s.ringTake 0 x.ring (k * x.esize) 17
    s.fastOn = true ∧ NothingStarted s 0 ∧ RunsLocally s 0 x true ∧ x.apart = true ∧ x.next < x.total ∧ g.avail ≥ x.esize ∧
      c.freeTag x = some 64 ∧ s.turnOf 0 0 = true ∧ (s.welt.claim .mem (blockFor 0 0)).2.isSome = true ∧ took.2.2 = false ∧ (∀ y ∈ x.cells x.next took.2.1, s.serves y.1 = true) ∧
      MemoriesWf s := by unfold RunsLocally NothingStarted MemoriesWf; decide
theorem wit_noEpoch (f : CoreSt → CoreSt) : ∀ a, (up f).ins.isEpoch a = false := reset_noEpoch
theorem wit_EngineInstructionsComplete :
    let x := ended (entry .mxPass (fieldAt 20 1) 0) .ok
    let s := up fun c => { c with mx := { waiting := [], running := [x] } }
    s.fastOn = true ∧ x.status = some .ok ∧ (∀ a ∈ s.coll.active, a.core ≠ 0) ∧ SignalRoom (s.core 0).arch x.e ∧ x.e.op.isNm = false ∧
      (s.core 0).mx.running = [x] ∧ (s.core 0).mv.running = [] ∧ (s.core 0).vx.running = [] ∧ x.e.op = .mxPass := by
  unfold SignalRoom; decide
theorem wit_EngineInstructionsComplete_mv :
    let x := ended (entry .mvDot 0 0) .residueFault
    let s := up fun c => { c with mv := { waiting := [], running := [x] } }
    x.status = some .residueFault ∧ x.e.op.isNm = false ∧ (s.core 0).mx.running = [] ∧ (s.core 0).mv.running = [x] ∧ (s.core 0).vx.running = [] := by
  decide
theorem wit_EngineInstructionsComplete_vx :
    let x := { ended (entry .vxChain 0 0) .ok with g := { Progress.zero with ovf := true } }
    let s := up fun c => { c with vx := { waiting := [], running := [x] } }
    x.status = some .ok ∧ x.e.op.isNm = false ∧ (s.core 0).mx.running = [] ∧ (s.core 0).mv.running = [] ∧ (s.core 0).vx.running = [x] ∧
      x.g.ovf = true ∧ (s.core 0).region = none := by decide
theorem wit_EngineInstructionsComplete_fused :
    let x := ended (entry .mxAg 0 0) .ok
    let y := ended (entry .agSide 0 0) .timeout
    let s := up fun c => { c with mx := { waiting := [], running := [x] }, cl := { waiting := [], running := [y] } }
    (s.core 0).mx.running = [x] ∧ (s.core 0).cl.running = [y] ∧ x.e.op.isFused = true ∧ y.e.id = x.e.id ∧ y.status = some .timeout := by decide


/-! ### Premises: near-memory commands and collectives -/

/-- The part at coordinate 0 with one neighbour, at T 1, by port 0, and a communicator of both on core 0. -/
def wired (f : CoreSt → CoreSt) : State :=
  { up f with
    fab := { Fabric.reset with
      extT := 2, extC := 1, extP := 1, extD := 1, extOn := #v[2, 1, 1, 1]
      port := vput Fabric.reset.port 0 { FabPort.reset with state := .up, disable := false, credit := Vector.replicate 8 4 } }
    coll := { Coll.reset with comms := [(0, { CommSt.reset with comm := 0x10000001020, slots := 16, on := some (0x10000001020, 16) })] } }

/-- A packet of the neighbour for this part. -/
def pkt (kind cls dunit : Nat) (arg : BitVec 48) (len : Nat) (payload : List Byte) : Packet :=
  sealed
    { arg := arg, ctx := 0, len := BitVec.ofNat 12 len, uepoch := 0, src := 1, dst := 0, dunit := BitVec.ofNat 6 dunit, resv := false
      echo := false, mark := false, dl := false, cls := BitVec.ofNat 2 cls, kind := BitVec.ofNat 4 kind, payload := payload, good := true }

/-- Core 0 with memory m as its scratch. -/
def withMem (m : Memory) (c : CoreSt) : CoreSt := { c with arch := { c.arch with scratch := m } }

/-- NM.AMAX of one V16 element at 0, its result at 4. -/
def amaxMem : Memory := [(8, 1), (24, 4)]

theorem wit_NearMemoryCommands_start :
    let e := entry (.nm .amax) 0 0
    let s := up fun c => withMem amaxMem (inSt e c)
    let c := s.core 0
    let raw := (List.range 64).map fun i => c.arch.scratch.read (0 + i)
    let b := nmBlock .amax raw []
    s.fastOn = true ∧ c.busy = true ∧ c.phase = .service ∧ c.stopping = false ∧ c.stq.waiting = [e] ∧ e.act = true ∧
      (∀ y ∈ c.stale, y.1 ≤ e.id) ∧ tailWcnt e.w ≤ (c.arch.semOf (tailWsem e.w)).count.toNat ∧ c.arch.scratchPoison = [] ∧
      (∀ x ∈ s.nmChecks 0 b raw, x.1 = true) ∧ s.anchors b 0 = true ∧
      ∀ j : StackId, s.anchors b j = true → (s.stack[j]).serves = true ∧ (s.stack[j]).queue.length < 8 := by decide +kernel

/-- A command that waits in a stack. -/
def nmEntry (core : Core) : NmEntry :=
  { core := core, uepoch := 0, id := 0, op := .amax, block := (List.range 64).map fun i => amaxMem.read i, params := [] }

/-- Commands of cores 0 and 1 in the stacks. -/
def withNm (qs : List (StackId × List NmEntry)) (s : State) : State :=
  qs.foldl (fun s x => s.modStack x.1 fun k => { k with queue := x.2 }) s

theorem wit_NearMemoryCommands_report :
    let x := nmEntry 0
    let y := { ended (entry (.nm .amax) 0 0) .ok with status := none }
    let s := withNm [(0, [x]), (1, [x])] (up fun c => withMem amaxMem { c with stq := { waiting := [], running := [y] } })
    (s.stack[(0 : StackId)]).queue = [x] ∧ (s.stack[(0 : StackId)]).serves = true ∧
      (∃ j : StackId, j ≠ 0 ∧ ∃ y ∈ (s.stack[j]).queue, y.core = x.core ∧ y.id = x.id) ∧ s.mayRun x = true ∧
      (s.runShare 0 x true .clean).1.far = false ∧ (s.runShare 0 x true .clean).1.stop = none ∧
      (s.runShare 0 x true .clean).1.part = false ∧ (s.runShare 0 x false .clean).1.far = false ∧
      ((up id).stack[(0 : StackId)]).queue = [] := by decide +kernel
theorem wit_NearMemoryCommands_silence :
    let x := nmEntry 0
    let y := { ended (entry (.nm .amax) 0 0) .ok with status := none }
    let s := withNm [(0, [x])] (up fun c => withMem amaxMem { c with stq := { waiting := [], running := [y] } })
    let c := s.core 0
    ((s.stack[(0 : StackId)]).queue.find? fun z => z.core == 0) = some x ∧
      (∀ j : StackId, j ≠ 0 → ∀ z ∈ (s.stack[j]).queue, ¬ (z.core = 0 ∧ z.id = x.id)) ∧ c.stq.running = [y] ∧ y.e.id = x.id ∧
      y.e.op.isNm = true ∧ y.g.fail = none ∧ SignalRoom c.arch y.e ∧ y.e.a.toNat + 64 ≤ 0x800000 ∧ y.e.a.toNat % 64 = 0 ∧
      (y.e.a.toNat + 56) / 16 ∉ c.arch.scratchPoison := by unfold SignalRoom; decide

/-- The collective at the head of core 0's CL queue. -/
def inCl (e : QEntry) (c : CoreSt) : CoreSt := { c with cl := { waiting := [e], running := [] }, nextId := 1 }

/-- CL.AG of one V16 element at Insole address 0 into address 64. -/
def agMem : Memory := [(1, 1), (8, 1), (24, 64)]

/-- An all-gather, or a barrier, that is due on core 0. -/
def due (op : ClOp) (m : Memory) : State := wired fun c => withMem m (inCl (entry (.cl op) 0 0) c)

theorem due_gather : CollectiveDue (due .ag agMem) 0 (entry (.cl .ag) 0 0) .ag [] := by
  unfold CollectiveDue NothingStarted; decide
theorem checked_gather : CollectiveChecked (due .ag agMem) 0 (entry (.cl .ag) 0 0) .ag 0x10000001020 := by
  unfold CollectiveChecked; decide +kernel
theorem due_barrier : CollectiveDue (due .bar [(1, 1)]) 0 (entry (.cl .bar) 0 0) .bar [] := by
  unfold CollectiveDue NothingStarted; decide
theorem checked_barrier : CollectiveChecked (due .bar [(1, 1)]) 0 (entry (.cl .bar) 0 0) .bar 0x10000001020 := by
  unfold CollectiveChecked; decide +kernel
/-- The descriptor bytes of the gather and of the barrier. -/
def agRaw : List Byte := [0, 1, 0, 0, 0, 0, 0, 0, 1] ++ List.replicate 15 0 ++ [64] ++ List.replicate 39 0
def barRaw : List Byte := [0, 1] ++ List.replicate 62 0
theorem agBytes0 : descBytes ((due .ag agMem).core 0).arch 0 = agRaw := by decide +kernel
theorem agBytes : descBytes ((due .ag agMem).core 0).arch (entry (.cl .ag) 0 0).a.toNat = agRaw := agBytes0
theorem barBytes0 : descBytes ((due .bar [(1, 1)]).core 0).arch 0 = barRaw := by decide +kernel
theorem barBytes : descBytes ((due .bar [(1, 1)]).core 0).arch (entry (.cl .bar) 0 0).a.toNat = barRaw := barBytes0
theorem none_of {α : Type} (l : List α) (p : α → Bool) (h : l.all (fun y => !p y) = true) : ∀ y ∈ l, p y = false := by
  simpa using h

/-- The gather and the barrier that start, and the axis of their communicator. -/
def agStart : Active := startedColl (due .ag agMem) 0 (entry (.cl .ag) 0 0) .ag 0x10000001020
def barStart : Active := startedColl (due .bar [(1, 1)]) 0 (entry (.cl .bar) 0 0) .bar 0x10000001020
def pair : GroupAxis := { no := 0, ax := 0, base := 0, g := 2 }
theorem agAxes : (due .ag agMem).collAxes agStart = [pair] := by
  simp only [agStart, startedColl, agBytes]
  decide +kernel
theorem barAxes : (due .bar [(1, 1)]).collAxes barStart = [pair] := by
  simp only [barStart, startedColl, barBytes]
  decide +kernel
theorem wit_CollectivesStart_gather :
    CollectiveDue (due .ag agMem) 0 (entry (.cl .ag) 0 0) .ag [] ∧ CollectiveChecked (due .ag agMem) 0 (entry (.cl .ag) 0 0) .ag 0x10000001020 ∧
      (due .ag agMem).commOn (BitVec.ofNat 8 (natAt agRaw 0 1)) = some (0x10000001020, 16) ∧
      commCore 0x10000001020 = 0 ∧ (due .ag agMem).coll.active = [] ∧ (due .ag agMem).fab.fenced = false ∧
      (∀ y ∈ (due .ag agMem).members ((due .ag agMem).collAxes agStart), (due .ag agMem).fencedCoord y = false) ∧
      ((due .ag agMem).collInput (collDesc .ag false agRaw) ((due .ag agMem).seat agStart) .clean).2.1 = .ok ∧
      (collDesc .ag false agRaw).count ≠ 0 ∧ agStart.finished ((due .ag agMem).seat agStart) = false := by
  refine ⟨due_gather, checked_gather, by decide, by decide, by decide, by decide, by rw [agAxes]; exact none_of _ _ (by decide), ?_, by decide, ?_⟩
  · simp only [State.seat, agAxes]
    decide +kernel
  · simp only [State.seat, agAxes]
    simp only [agStart, startedColl, agBytes]
    decide +kernel
theorem wit_CollectivesStart_barrier :
    CollectiveDue (due .bar [(1, 1)]) 0 (entry (.cl .bar) 0 0) .bar [] ∧
      CollectiveChecked (due .bar [(1, 1)]) 0 (entry (.cl .bar) 0 0) .bar 0x10000001020 ∧
      (∀ y ∈ (due .bar [(1, 1)]).members ((due .bar [(1, 1)]).collAxes barStart), (due .bar [(1, 1)]).fencedCoord y = false) ∧
      ((due .bar [(1, 1)]).collInput (collDesc .bar false barRaw) ((due .bar [(1, 1)]).seat barStart) .clean).2.1 = .ok ∧
      (due .bar [(1, 1)]).collAxes barStart = [pair] := by
  refine ⟨due_barrier, checked_barrier, by rw [barAxes]; exact none_of _ _ (by decide), ?_, barAxes⟩
  simp only [State.seat, barAxes]
  decide +kernel
theorem wit_CollectivesStart_predicate :
    let x := { entry (.cl .ag) 0 0 with act := false }
    MayTake (up (inCl x)) 0 .cl x [] ∧ x.act = false := by unfold MayTake NothingStarted SignalFits; decide
theorem wit_CollectivesStart_mismatch :
    let x := entry (.cl .ag) 0 0
    let s := up fun c => withMem agMem (inCl x c)
    CollectiveDue s 0 x .ag [] ∧ s.commOn (BitVec.ofNat 8 (natAt (descBytes (s.core 0).arch 0) 0 1)) = none ∧ SignalFits (s.core 0).arch x := by
  unfold CollectiveDue NothingStarted SignalFits; decide

/-- An all-gather of one V16 element that core 0 runs. -/
def gathering : Active :=
  { Active.blank 0 0 0 0 7 .ag with axes := 1, count := 1, input := [1, 2], id := 0 }

/-- The first chunk it sends, and the one it receives. -/
def gatherKey : ChunkKey := { ctrl := false, gather := true, ph := false, dir := false, step := 1, idx := 0, peer := 0 }

/-- Its instruction in the CL queue. -/
def clRun (op : ClOp) : RunEntry := { ended (entry (.cl op) 0 0) .ok with status := none }

/-- The part with the collective a active. -/
def collecting (a : Active) : State :=
  let s := wired fun c => { c with cl := { waiting := [], running := [clRun a.op] }, seq := [(0, 1)] }
  { s with coll := { s.coll with active := [a] } }

/-- No core of a part is FAULTED or STOPPED, so that none of a communicator is. -/
theorem wellOf {s : State} {c : Comm} (h : ∀ n : Core, (s.core n).reg.run ≠ .faulted ∧ (s.core n).reg.run ≠ .stopped) :
    CommCoreWell s c := fun w _ _ => h (commCore w)

theorem wit_MaySend : MaySend (wired id) 1 0 := by unfold MaySend; decide
theorem wit_CollectiveChunks_send :
    let s := collecting gathering
    let a := gathering
    let l := s.seat a
    s.fastOn = true ∧ s.coll.active = [a] ∧ (s.core a.core).mx.running = [] ∧ (s.core a.core).mv.running = [] ∧
      (s.core a.core).vx.running = [] ∧ (∀ b ∈ s.coll.active, b.fused = false) ∧ gatherKey.ctrl = false ∧ a.got = [] ∧ a.op ≠ .vote ∧
      a.op ≠ .bar ∧ a.count ≠ 0 ∧ (a.nextSend l gatherKey).isSome = true ∧ ((a.nextSend l gatherKey).map Prod.snd) = some gatherKey ∧
      ((a.nextSend l gatherKey).bind fun x => x.1.sendData a l gatherKey) = some [1, 2] ∧
      (a.nextSend l gatherKey).all (fun x => (begun a l (a.phases l)).any fun q => q.kind == x.1.kind && q.second == x.1.second) = true ∧
      MaySend s (s.targetOf a gatherKey) 0 ∧ s.maySend a gatherKey false = true ∧
      { a with sent := a.sent ++ [gatherKey] }.finished l = false := by unfold MaySend; decide
theorem wit_CollectiveChunks_wait :
    let s := collecting gathering
    let a := gathering
    let b := { gathering with asked := [(gatherKey, 3)] }
    s.waitsFor a gatherKey = some 1 ∧ a.askedFor gatherKey < 3 ∧ s.reqOut a.comm 1 a gatherKey = false ∧ MaySend s 1 0 ∧
      (collecting b).waitsFor b gatherKey = some 1 ∧ 3 ≤ b.askedFor gatherKey ∧ (clRun .ag).e.id = b.id ∧
      ((collecting b).core 0).cl.running = [clRun .ag] ∧ SignalRoom ((collecting b).core 0).arch (clRun .ag).e ∧ b.got = [] ∧
      b.op ≠ .vote ∧ b.fused = false ∧ ((collecting b).core 0).mx.running = [] ∧ ((collecting b).core 0).mv.running = [] ∧
      ((collecting b).core 0).vx.running = [] := by
  unfold MaySend SignalRoom; decide
theorem wit_CollectiveChunks_well : CommCoreWell (collecting gathering) 0 := wellOf (by decide)
theorem wit_CollectiveChunks_credits :
    let m : CommSt := { CommSt.reset with
      on := some (0x10000001020, 16), debts := [(flowKey 1 false false, { count := 8, echo := true, r := 0, seq := 3 })] }
    let s := { wired id with coll := { Coll.reset with comms := [(0, m)] } }
    s.fastOn = true ∧ MaySend s 1 0 ∧ SMap.wf CommSt.reset s.coll.comms = true ∧ SMap.wf Debt.reset (s.comm 0).debts = true ∧
      (SMap.get Debt.reset (s.comm 0).debts (flowKey 1 false false)).count ≠ 0 ∧
      ∀ a b, ¬ (a = false ∧ b = false) → (SMap.get Debt.reset (s.comm 0).debts (flowKey 1 a b)).count = 0 := by unfold MaySend; decide

/-- A CHUNK of the gather from the neighbour. -/
def chunkPkt (sig : BitVec 16) : Packet := pkt 4 3 0x20 (chunkArg 0 0 false false 1 0 sig) 1 [3, 4]

theorem wit_CollectivePacketsAct_hold : Arrives (wired id) 0 (chunkPkt 7) 4 ∧ (wired id).fateOf (chunkPkt 7) matches .hold := by
  unfold Arrives; decide +kernel
theorem wit_CollectivePacketsAct_drop :
    let s := wired fun c => { c with seq := [(0, 1)] }
    Arrives s 0 (chunkPkt 7) 4 ∧ (s.fateOf (chunkPkt 7) matches .drop) ∧ (s.commOn 0).isSome = true ∧
      (SMap.get Debt.reset (SMap.get CommSt.reset s.coll.comms 0).debts (flowKey 1 false false)).count + 1 < 8 := by
  unfold Arrives; decide +kernel
/-- A gather of three parts, so that the chunk received is to be passed on. -/
theorem wit_CollectivePacketsAct_take :
    let a := gathering
    let s := { collecting a with
      fab := { (collecting a).fab with extT := 3, extOn := #v[3, 1, 1, 1] }
      coll := { (collecting a).coll with comms := [(0, { CommSt.reset with on := some (0x10000001040, 16) })] } }
    let l := s.seat a
    let k := sealed { chunkPkt 7 with src := 2 }
    let b := { a with got := [{ key := gatherKey, data := k.payload, mark := k.mark, freed := false }] }
    Arrives s 0 k 4 ∧ s.coll.active = [a] ∧ (match s.fateOf k with | .act x => decide (x = a) | _ => false) = true ∧ chunkSig k = a.sig ∧
      (a.phaseOf l gatherKey).all (fun ph => (ph.recvKeys a l false).contains gatherKey && !b.released l ph gatherKey) = true ∧
      (a.phaseOf l gatherKey).isSome = true ∧ s.sourceOf a gatherKey = k.src ∧ a.op = .ag ∧ a.count ≠ 0 ∧ a.fused = false ∧
      a.got = [] ∧ (s.core 0).mx.running = [] ∧ (s.core 0).mv.running = [] ∧ (s.core 0).vx.running = [] := by
  unfold Arrives; decide +kernel
theorem wit_CollectivePacketsAct_credit :
    let k := sealed { pkt 5 3 0x20 (chunkArg 0 0 false false 0 1 0) 0 [] with echo := true }
    Arrives (wired id) 0 k 5 ∧ (wired id).commOn (chunkComm k) = some (0x10000001020, 16) ∧
      SMap.wf Flow.reset (SMap.get CommSt.reset (wired id).coll.comms 0).flows = true ∧
      ((wired id).flowOf 0 1 false false).wait = 0 := by unfold Arrives; decide +kernel
theorem wit_CollectivePacketsAct_rereq :
    let a := { gathering with sent := [gatherKey] }
    let m : CommSt := { CommSt.reset with on := some (0x10000001020, 16), flows := [(flowKey 1 false false, { Flow.reset with spent := 1 })] }
    let s := { collecting a with coll := { Coll.reset with active := [a], comms := [(0, m)] } }
    let k := pkt 6 3 0x20 (chunkArg 0 0 false false 1 0 7) 0 []
    Arrives s 0 k 6 ∧ (match s.fateOf k with | .act x => decide (x = a) | _ => false) = true ∧ chunkSig k = a.sig ∧ a.byCtrl = false ∧
      gatherKey ∈ a.sent ∧ { gatherKey with gather := false } ∉ a.sent ∧ s.targetOf a gatherKey = k.src ∧
      s.sentAfter a gatherKey < (s.flowOf 0 1 false false).spent ∧
      ((a.phaseOf (s.seat a) gatherKey).bind fun ph => ph.sendData a (s.seat a) gatherKey) = some [1, 2] ∧ MaySend s 1 0 := by
  unfold Arrives MaySend; decide +kernel

/-- A CTRL of the neighbour. -/
def ctrlPkt (sub value : Nat) (sig : BitVec 16) : Packet := pkt 7 3 0x20 (ctrlArg 0 0 false sub value sig) 0 []

theorem wit_CollectivePacketsAct_ctrl : ∀ sub ∈ [1, 2, 3], Arrives (wired id) 0 (ctrlPkt sub 0 7) 7 ∧ ctrlSub (ctrlPkt sub 0 7) = sub ∧
    ((wired id).fateOf (ctrlPkt sub 0 7) matches .hold) ∧ (SMap.get CommSt.reset (wired id).coll.comms 0).heldCtrl.length < 16 := by
  unfold Arrives; decide +kernel
theorem wit_CollectivePacketsAct_well : CommCoreWell (wired id) 0 := wellOf (by decide)

/-- A barrier that core 0 runs and that waits for its neighbour. -/
def barrier : Active := { Active.blank 0 0 0 0 7 .bar with axes := 1, sent := [ctrlKey false 1] }

theorem wit_CollectivesEndByControl_alone : AloneActive (collecting barrier) barrier (clRun .bar) := by
  refine ⟨rfl, by decide, rfl, rfl, rfl, rfl, rfl, rfl, by unfold SignalRoom; decide, by decide, wellOf (by decide)⟩
theorem wit_CollectivesEndByControl_barrier :
    let s := collecting barrier
    let a := barrier
    let k := ctrlPkt 1 0 7
    let g : GroupAxis := { no := 0, ax := 0, base := 0, g := 2 }
    Arrives s 0 k 7 ∧ (match s.fateOf k with | .act x => decide (x = a) | _ => false) = true ∧ ctrlSub k = 1 ∧ chunkSig k = a.sig ∧
      a.got = [] ∧ a.op = .bar ∧ a.count = 0 ∧ a.norm = false ∧ a.bad = false ∧ a.drops = 0 ∧ s.step.modeOn = 0 ∧ s.collAxes a = [g] ∧
      (s.core 0).arch.scratchPoison = [] ∧ chunkPh k = (g.no == 1) ∧ g.no ≤ 1 ∧ k.src ∈ s.members [g] ∧
      ∀ q < g.g, q ≠ s.posOn g → ctrlKey (g.no == 1) q ∈ a.sent ∧ (q ≠ coordAt k.src g.ax - g.base → False) := by
  unfold Arrives; decide +kernel
theorem wit_CollectivesEndByControl_abort :
    let s := collecting gathering
    let k := ctrlPkt 3 0x10 7
    Arrives s 0 k 7 ∧ (match s.fateOf k with | .act x => decide (x = gathering) | _ => false) = true ∧
      ctrlSub k = 3 ∧ chunkSig k = gathering.sig ∧ Status.ofCode (ctrlVal k) = some .timeout := by
  unfold Arrives; decide +kernel
theorem wit_CollectivesEndByControl_aloneGather : AloneActive (collecting gathering) gathering (clRun .ag) := by
  refine ⟨rfl, by decide, rfl, rfl, rfl, rfl, rfl, rfl, by unfold SignalRoom; decide, by decide, wellOf (by decide)⟩
theorem wit_CollectivesEndByControl_mismatch :
    let s := collecting gathering
    (∀ sub ∈ [1, 2, 3], Arrives s 0 (ctrlPkt sub 0 8) 7 ∧ chunkSig (ctrlPkt sub 0 8) ≠ gathering.sig) ∧ Arrives s 0 (chunkPkt 8) 4 ∧
      (match s.fateOf (chunkPkt 8) with | .act x => decide (x = gathering) | _ => false) = true ∧
      Arrives s 0 (pkt 6 3 0x20 (chunkArg 0 0 false false 1 0 8) 0 []) 6 := by unfold Arrives; decide +kernel


/-! ### Premises: the step protocol -/

/-- A running voter that has not voted. -/
def voter (c : CoreSt) : CoreSt := { c with isVoter := true }

/-- The part of wired with core 0 a voter and the step protocol changed by f. -/
def voting (f : StepUnit → StepUnit) : State := { wired voter with step := f StepUnit.reset }

/-- A STEP packet of the neighbour. -/
def stepPkt (epoch : BitVec 32) (sub : Nat) (payload : List Byte) : Packet :=
  pkt 9 2 0x21 (stepArg epoch 0 sub 0) payload.length payload

theorem wit_SomeVoterDue : SomeVoterDue (voting id) := by unfold SomeVoterDue; decide
theorem wit_StepPacketsAct_hold : ∀ sub ∈ [1, 2],
    let s := voting id
    let k := stepPkt 0 sub (List.replicate 8 0)
    let old := stepPkt 0xFFFFFFFF sub (List.replicate 8 0)
    StepArrives s 0 k sub ∧ s.earlier (stepKey k).1 (stepKey k).2.1 = false ∧ s.heldAlready k = false ∧ s.step.flagSent = false ∧
      s.step.sealSent = false ∧ StepArrives s 0 old sub ∧ s.earlier (stepKey old).1 (stepKey old).2.1 = true ∧
      (voting fun t => { t with held := [k] }).heldAlready k = true := by
  unfold StepArrives Arrives; decide +kernel
theorem wit_StepPacketsAct_resend :
    let x := { stepPkt 0 1 (List.replicate 8 0) with src := 0, dst := 1 }
    let s := voting fun t => { t with kept := [x], flagSent := true }
    let k := stepPkt 0 3 []
    StepArrives s 0 k 3 ∧ MaySend s x.dst 0 ∧ x.src = s.coord ∧
      (s.step.kept.filter fun y => y.dst == k.src && (stepKey k).1 == (stepKey y).1 && (stepKey k).2.1 == (stepKey y).2.1 &&
        (stepKey k).2.2.2 == (stepKey y).2.2.2) = [x] ∧ s.current (stepKey k).1 (stepKey k).2.1 = true ∧ s.reached (stepKey k).2.2.2 = true := by
  unfold StepArrives Arrives MaySend; decide +kernel
/-- A RESEND for the current pair and a phase not reached yet. -/
theorem wit_StepPacketsAct_resendEarly :
    let s := voting id
    let k := pkt 9 2 0x21 (stepArg 0 0 3 3) 0 []
    StepArrives s 0 k 3 ∧ s.earlier (stepKey k).1 (stepKey k).2.1 = false ∧
      ¬ (s.current (stepKey k).1 (stepKey k).2.1 = true ∧ s.reached (stepKey k).2.2.2 = true) ∧ s.heldAlready k = false := by
  unfold StepArrives Arrives; decide +kernel
/-- The first DIGEST of a sender, one it has given, one of an earlier pair, and a packet of another vote group. -/
theorem wit_StepPacketsAct_digest :
    let k := stepPkt 0 4 (List.replicate 8 1)
    let old := stepPkt 0xFFFFFFFF 4 (List.replicate 8 1)
    let again := voting fun t => { t with digestGot := [(1, 0, 5)] }
    StepArrives (voting id) 0 k 4 ∧ (voting id).step.digestGot = [] ∧ (voting id).earlier (stepKey k).1 (stepKey k).2.1 = false ∧
      StepArrives (voting id) 0 old 4 ∧ (voting id).earlier (stepKey old).1 (stepKey old).2.1 = true ∧ StepArrives again 0 k 4 ∧
      (∃ g ∈ again.step.digestGot, g.1 = k.src ∧ g.2.1 = BitVec.ofNat 64 ((stepKey k).1 * 256 + (stepKey k).2.1)) ∧
      Arrives (voting fun t => { t with vgid := 1 }) 0 k 9 ∧ k.ctx ≠ (voting fun t => { t with vgid := 1 }).vgidNow := by
  unfold StepArrives Arrives; decide +kernel

/-- A round of this part and its neighbour on axis T is under way. -/
def inFlag (t : StepUnit) : StepUnit := { t with flagSent := true, grpOn := 8 }

theorem wit_VoteRounds_flag :
    let s := voting inFlag
    let k := stepPkt 0 1 [5, 0, 0, 0, 0, 0, 0, 0]
    StepArrives s 0 k 1 ∧ s.earlier (stepKey k).1 (stepKey k).2.1 = false ∧ s.heldAlready k = false ∧
      (stepKey k).1 = s.epoch.toNat ∧ (stepKey k).2.1 = s.step.attempt.toNat ∧ (stepKey k).2.2.2 = s.step.phase ∧
      (∀ j < 4, s.step.phase < j → (groupAxis s.step.grpOn j).2 = 1) ∧ (groupAxis s.step.grpOn s.step.phase).2 ≠ 1 ∧
      s.line s.step.phase = [1] ∧ s.phaseWord s.step.phase k.src = none ∧ s.awl.onVote = false ∧ s.step.autoOn = false ∧
      s.step.flagDone = false ∧ s.step.sealing = false ∧ s.step.sealSent = false ∧ SomeVoterDue s ∧ s.step.phase < 4 ∧
      s.step.flagSent = true := by
  unfold StepArrives Arrives SomeVoterDue; decide +kernel
theorem wit_VoteRounds_seal :
    let s := voting fun t => { inFlag t with flagDone := true, sealing := true, sealSent := true }
    let k := stepPkt 0 2 [5, 0, 0, 0, 0, 0, 0, 0]
    StepArrives s 0 k 2 ∧ s.heldAlready k = false ∧ s.line s.step.phase = [1] ∧ s.phaseWord s.step.phase k.src = none ∧
      s.step.sealDone = false ∧ SomeVoterDue s := by unfold StepArrives Arrives SomeVoterDue; decide +kernel
theorem wit_VoteRounds_wait :
    let s := voting inFlag
    let t := voting fun t => { inFlag t with grpOn := 16, resends := [(1, 3)] }
    s.mayVote = true ∧ s.awaits 1 = true ∧ MaySend s 1 0 ∧ t.mayVote = true ∧ t.awaits 1 = true ∧
      (t.step.resends.find? fun r => r.1 == 1) = some (1, 3) ∧ t.line t.step.phase = [1, 2] ∧
      t.phaseWord t.step.phase 2 = none ∧ (groupAxis t.step.grpOn t.step.phase).2 ≠ 1 ∧ SomeVoterDue t ∧ t.step.phase < 4 ∧
      t.step.flagSent = true := by
  unfold MaySend SomeVoterDue; decide +kernel

/-- Both rounds of the attempt are done. -/
def bothDone (t : StepUnit) : StepUnit := { t with flagSent := true, flagDone := true, sealSent := true, sealDone := true }

theorem wit_DecisionsAreTaken_early :
    (voting fun t => { t with decided := some (0, 0) }).taken 0 0 = true ∧ (voting id).taken 0 0 = false ∧
      (voting id).tooSoon 0 0 = true ∧ (voting bothDone).tooSoon 1 0 = true := by decide
theorem wit_DecisionsAreTaken_due :
    let s := voting bothDone
    s.taken 0 0 = false ∧ s.tooSoon 0 0 = false ∧ (∃ m : Core, (s.core m).votes = true ∧ (s.core m).byState = false) ∧
      s.batchReady s.epoch.toNat = false ∧ s.step.sealDone = true ∧ s.voteResult = 0 ∧
      (voting fun t => { bothDone t with flagWord := 1 }).voteResult ≠ 0 := by decide
theorem wit_DecisionsAreTaken_fenced :
    let s := { voting bothDone with fab := { (voting bothDone).fab with fenced := true } }
    s.taken 0 0 = false ∧ s.tooSoon 0 0 = false ∧ s.fab.fenced = true := by decide
theorem wit_DecisionsAreTaken_unsealed :
    let s := voting fun t => { bothDone t with sealDone := false }
    s.taken 0 0 = false ∧ s.tooSoon 0 0 = false ∧ s.step.sealDone = false := by decide
/-- A stack free to act on a commit and on an abort, with a decision behind it, and stacks that must wait: one whose records
are not settled, and one whose queue holds a command that writes its epoch granules. -/
theorem wit_StacksActOnDecisions : ∀ b : Bool,
    let tab : EpochTable := { twin := [2], written := [1, 2], unsettled := [], former := [] }
    let x := { Stack.reset with decisions := [b, true], table := tab, late := [(2, [])] }
    let s := { (up id).modStack 0 fun _ => x with step := { StepUnit.reset with given := 2 } }
    let held := (up id).modStack 0 fun _ => { x with table := { tab with unsettled := [3] } }
    s.fastOn = true ∧ s.stack[(0 : StackId)] = x ∧ x.state = .ready ∧ x.table.unsettled = [] ∧ s.positionDue 0 = false ∧
      s.nmHolds 0 = false ∧ x.table.written.Nodup ∧ (∀ y ∈ x.late, s.step.given - [true].length < y.1) ∧
      (held.stack[(0 : StackId)]).table.unsettled ≠ [] := by decide +kernel
theorem wit_CommitsFinish :
    let s := voting fun t => { t with committing := some true }
    s.fastOn = true ∧ s.step.committing = some true ∧ (∀ k : StackId, (s.stack[k]).decisions = []) ∧
      (∃ m : Core, (s.core m).votes = true ∧ (s.core m).byState = false) ∧ s.ing.state = .idle := by decide
theorem wit_StepConfiguration_write :
    (¬ ∃ m : Core, ((up id).core m).reg.run = .waiting) ∧
      ∃ m : Core, ((up fun c => { c with reg := { c.reg with run := .waiting } }).core m).reg.run = .waiting := by decide
theorem wit_StepConfiguration_shadow :
    let t := { StepUnit.reset with mode := 2, matched := 7 }
    let u := { StepUnit.reset with mode := 2, matched := 8 }
    (t.mode = 2 ∧ t.matched.toNat < 8) ∧ ¬ (u.mode = 2 ∧ u.matched.toNat < 8) := by decide
theorem wit_StepConfiguration_rewind :
    let s := { State.reset with awl := { Awl.reset with snapValid := true } }.modStack 0 fun x => { x with table := { x.table with former := [1] } }
    s.awl.snapValid = true ∧ (∀ n : Core, (s.core n).reg.run ≠ .running ∧ (s.core n).reg.run ≠ .waiting) ∧
      (tableOf s.stack[(0 : StackId)]).former.Nodup ∧
      ¬ ∀ n : Core, ((up id).core n).reg.run ≠ .running ∧ ((up id).core n).reg.run ≠ .waiting := by decide

/-! ### Premises: the fabric -/

/-- The part of wired with port 0 changed by f. -/
def porting (f : FabPort → FabPort) : State := (wired id).modPort 0 f

theorem wit_PortsChangeState :
    (∀ p : Port, (wired id).portLanes p ≠ 0) ∧ (porting id).fab.port[(0 : Port)].state.trained = true ∧
      (let x := (porting fun y => { y with state := .down, reason := 4 }).fab.port[(0 : Port)]
       x.state = .down ∧ x.reason = 4 ∧ x.auto = true ∧ x.disable = false) ∧
      (porting fun y => { y with state := .training }).fab.port[(0 : Port)].state = .training ∧
      (porting fun y => { y with state := .identify }).fab.port[(0 : Port)].state = .identify ∧
      (0x10 : BitVec 8).toNat % 2 ^ (wired id).portLanes 0 = 16 ∧ (0x40 : BitVec 8).toNat % 2 ^ (wired id).portLanes 0 = 0 ∧
      ({ wired id with fab := { (wired id).fab with lanesOn := 0 } } : State).portLanes 0 = 0 := by decide

/-- What the neighbour's port 1 sends: format 1, coordinate 1, revisions 1 to 2, flags as given. -/
def frameOf (flags rev : Byte) : List Byte :=
  let b := [1, flags, 1, 0, 0, 0, 0xFF, rev] ++ List.replicate 12 0
  b ++ leBytes 4 (crc32c b).toNat

theorem wit_IdentityFrames_valid :
    frameValid (frameOf 0x09 0x21) = true ∧ frameValid (frameOf 0x01 0x21) = true ∧ frameValid (frameOf 0x09 0x33) = true ∧
      frameValid (List.replicate 24 0) = false := by decide +kernel
theorem wit_IdentityFrames_verdicts :
    frameVerdict 0 1 (frameOf 0x09 0x21) = (.up, 0) ∧ frameVerdict 0 1 (frameOf 0x01 0x21) = (.quarantine, 11) ∧
      frameVerdict 0 1 (frameOf 0x09 0x33) = (.down, 5) ∧ frameVerdict 0 1 (frameOf 0x08 0x21) = (.quarantine, 8) ∧
      frameVerdict 0 2 (frameOf 0x09 0x21) = (.quarantine, 7) := by decide +kernel
theorem wit_IdentityFrames_port :
    let s := porting fun y => { y with state := .identify, last := 1 }
    s.fastOn = true ∧ s.fab.port[(0 : Port)].state.trained = true ∧ s.fab.port[(0 : Port)].state = .identify ∧ s.fab.fenced = false ∧
      s.fencedCoord 1 = false := by decide
theorem wit_FabricRegisters :
    (∀ q : Port, State.reset.fab.port[q].state = .down) ∧ (¬ ∀ q : Port, (wired id).fab.port[q].state = .down) ∧
      (∀ q : Port, State.reset.fab.port[q].disable = true) ∧ State.reset.fab.laneErr ≠ 0 ∧
      ({ State.reset.fab with extD := 2, extP := 2, extC := 2, extT := 2 } : Fabric).laneErr = 0 ∧
      (wired id).portOpen 0 = true := by decide

/-- The fence table entry of the neighbour. -/
def fence1 : FenceEntry := { token := 5, valid := true, coord := 1 }

/-- A NOTICE of the neighbour that coordinate 1 is fenced under token 5. -/
def noticePkt : Packet := pkt 8 2 0x21 0 7 [1, 0, 1, 0, 0, 5, 0, 0]

theorem wit_FabricFences_token :
    let s := { wired id with fab := { (wired id).fab with fenced := true, token := 5 }
                             clk := { (wired id).clk with state := .fenced, prev := .active } }
    (wired id).fab.fenced = false ∧ (wired id).coll.active = [] ∧ s.fab.fenced = true ∧ s.fab.token = 5 ∧ s.clk.state ≠ .fault ∧
      s.clk.prev ≠ .ready ∧ s.clk.state ≠ .ready ∧ (6 : BitVec 24) ≠ s.fab.token := by decide
theorem wit_FabricFences_table :
    let v : Word := 0x0000000500010001
    let s := { wired id with fab := { (wired id).fab with ftbl := vput (wired id).fab.ftbl 0 fence1 } }
    v.getLsbD 16 = true ∧ (wired id).inRound = false ∧ BitVec.ofNat 24 (bitsOf v 55 32) = 5 ∧
      (s.fab.ftbl[(0 : Fin 16)].valid = true ∧ s.fab.ftbl[(0 : Fin 16)].token ≠ 6) := by decide
theorem wit_FabricFences_notice :
    let full := { wired id with fab := { (wired id).fab with ftbl := Vector.replicate 16 { fence1 with coord := 9 } } }
    Arrives (wired id) 0 noticePkt 8 ∧ (BitVec.ofNat 64 (natAt noticePkt.payload 0 8)).getLsbD 16 = true ∧
      (wired id).fencedCoord 1 = false ∧ (wired id).fab.ftbl[(0 : Fin 16)].valid = false ∧
      Arrives full 0 noticePkt 8 ∧ full.fencedCoord 1 = false ∧ ∀ j : Fin 16, full.fab.ftbl[j].valid = true := by
  unfold Arrives; decide +kernel
/-- A notice of a fenced coordinate that another part sends. -/
theorem wit_FabricFences_known :
    let s := { wired id with fab := { (wired id).fab with ftbl := vput (wired id).fab.ftbl 0 { fence1 with coord := 9 } } }
    Arrives s 0 (sealed { noticePkt with payload := [9, 0, 1, 0, 0, 5, 0, 0] }) 8 ∧ s.fencedCoord 9 = true := by unfold Arrives; decide +kernel
theorem wit_FabricFences_send :
    let v : Word := 0x0000050009000100
    (wired id).fab.fenced = false ∧ BitVec.ofNat 16 (bitsOf v 23 8) ≠ (wired id).coord ∧
      MaySend (wired id) (BitVec.ofNat 16 (bitsOf v 23 8)) 0 := by unfold MaySend; decide

/-- A READ of 64 B and a WRITE of 2 B, at an address of the scratch of core 0, and one for the part at T 2. -/
def readPkt : Packet := pkt 0 0 0 0x210000000040 63 []
def writePkt : Packet := pkt 1 0 0 0x210000000040 1 [7, 8]

theorem wit_DiscardedPackets :
    let s := { wired id with fab := { (wired id).fab with ftbl := vput (wired id).fab.ftbl 0 fence1 } }
    let far := { wired id with fab := { (wired id).fab with extT := 4, extOn := #v[4, 1, 1, 1] } }
    (wired id).portOpen 0 = true ∧ (wired id).discard 0 { readPkt with good := false } = some .crc ∧
      (wired id).discard 0 { readPkt with resv := true } = some .crc ∧
      (wired id).discard 0 (sealed { readPkt with resv := true }) = some .bad ∧ s.portOpen 0 = true ∧
      s.discard 0 readPkt = some .fenced ∧ far.portOpen 0 = true ∧
      far.discard 0 (sealed { readPkt with src := 3, dst := 1 }) = some .route ∧
      (wired id).discard 0 (sealed { readPkt with arg := 0x300000000000 }) = some .bad := by decide +kernel
theorem wit_InputsEmpty : InputsEmpty (wired id) := by unfold InputsEmpty; decide
theorem wit_InboundRequests_take :
    let asks := fun (k : Packet) => ({ user := .input 0 (inChannel k), owner := inboundOwner } : BlockWait)
    Arrives (wired id) 0 readPkt 0 ∧ ((wired id).welt.claim .rsp (asks readPkt)).2 = some false ∧ Arrives (wired id) 0 writePkt 1 ∧
      ((wired id).welt.claim .req (asks writePkt)).2 = some false ∧ (wired id).serves writePkt.arg.toNat = true ∧ MemoriesWf (wired id) ∧
      (writeCellsOf writePkt).all (fun c => ((wired id).locate false c.1).all fun l => !(wired id).poisoned l.word) = true := by
  unfold Arrives MemoriesWf; decide +kernel
theorem wit_wired_noEpoch : ∀ a, (wired id).ins.isEpoch a = false := reset_noEpoch
theorem wit_InboundRequests_reply :
    let k := readPkt
    let s := { wired id with fab := { (wired id).fab with inbound := [(k, .ok, (wired id).unitEpoch k.arg.toNat)] } }
    s.fastOn = true ∧ s.fab.inbound = [(k, .ok, s.unitEpoch k.arg.toNat)] ∧ k.kind = 0 ∧ s.serves k.arg.toNat = true ∧
      s.anyPoison false k.arg.toNat (k.len.toNat + 1) = false ∧ MaySend s k.src 0 := by
  unfold MaySend; decide +kernel
/-- Core 0 with one remote request outstanding on stream 0, tag 96; dir as the stream's direction field. -/
def asking (dir need : Nat) : State :=
  let r : Req := { first := 0, cnt := 1, tag := 96, uc := 2, need := need, done := false, data := [], status := .ok }
  wired fun c => { c with
    tags := [(96, 0, 0)], tagUse := vput c.tagUse 96 2
    arch := { c.arch with st := vput c.arch.st 0 { Stream.reset with
      addr := BitVec.ofNat 64 (2 ^ 63 + 2 ^ 47), ctl := fields [(26, dir)], active := true, reqs := [r] } } }

theorem wit_RemoteReplies_read :
    let s := asking 0 1
    let k := sealed { pkt 2 1 1 0 63 (List.replicate 64 7) with ctx := BitVec.ofNat 16 (96 + 2 * 2 ^ 7) }
    let late := sealed { k with ctx := BitVec.ofNat 16 (96 + 3 * 2 ^ 7) }
    let c := s.core 0
    let x := c.arch.stOf 0
    Arrives s 0 k 2 ∧ Arrives s 0 late 2 ∧ (replyFor k).1 = 0 ∧ (replyFor k).2.1 = 96 ∧ (c.tags.find? fun y => y.1 == 96) = some (96, 0, 0) ∧
      x.reqs.length = 1 ∧ (x.reqs.all fun r => r.first == 0) = true ∧ x.remote = true ∧ x.writes = false ∧
      vgetD c.tagUse 96 0 = (replyFor k).2.2 ∧ vgetD c.tagUse 96 0 ≠ (replyFor late).2.2 ∧ replyStatus k = .ok := by
  unfold Arrives; decide +kernel
theorem wit_RemoteReplies_ack : ∀ need ∈ [1, 2],
    let s := asking 1 need
    let k := sealed { pkt 3 1 1 0 0 [] with ctx := BitVec.ofNat 16 (96 + 2 * 2 ^ 7) }
    let x := (s.core 0).arch.stOf 0
    Arrives s 0 k 3 ∧ x.remote = true ∧ x.writes = true ∧ x.reqs.map Req.need = [need] ∧ x.reqs.map Req.status = [.ok] ∧
      replyStatus k = .ok ∧ vgetD (s.core 0).tagUse 96 0 = (replyFor k).2.2 := by
  unfold Arrives; decide +kernel
theorem wit_PacketsPassThrough_transit :
    let s := { wired id with fab := { (wired id).fab with
      extC := 3, extOn := #v[2, 3, 1, 1], port := vput (wired id).fab.port 2 { (wired id).fab.port[(0 : Port)] with state := .up } } }
    let k := sealed { readPkt with dst := 8 }
    InputsEmpty s ∧ s.portOpen 0 = true ∧ s.discard 0 k = none ∧ k.dst ≠ s.coord ∧ s.route k.dst = some 2 ∧
      s.fab.port[(2 : Port)].state = .up ∧ s.fab.fwd = [] ∧
      0 < (vgetD s.welt.fwdvcOn (channel k.cls.toNat (s.crosses 2)) 0).toNat ∧ (s.welt.claim .fwd
        { user := .input 0 (inChannel k), owner := channel k.cls.toNat (s.crosses 2) }).2.isSome = true := by
  unfold InputsEmpty; decide +kernel
theorem wit_PacketsPassThrough_send :
    let k := { readPkt with dst := 1 }
    let s := { wired id with fab := { (wired id).fab with inject := [(0, 0, k)] } }
    let t := { wired id with fab := { (wired id).fab with fwd := [(3, 0, 0, k)] } }
    InputsEmpty s ∧ s.portOpen 0 = true ∧ s.fab.port[(0 : Port)].credit[(0 : Fin 8)] > 0 ∧ s.fab.injectStop = false ∧
      s.fab.fenced = false ∧ s.fab.fwd = [] ∧ s.fab.inject = [(0, 0, k)] ∧ k.kind.toNat ≠ 2 ∧ k.kind.toNat ≠ 3 ∧
      t.portOpen 0 = true ∧ t.fab.inject = [] ∧ t.fab.fwd = [(3, 0, 0, k)] := by
  unfold InputsEmpty; decide +kernel

/-! ### Premises: the Welt and the stacks -/

theorem wit_WeltAndScrubs_apply :
    let used := { State.reset with welt := { Welt.reset with use := vput Welt.reset.use 0 { used := 1, shared := 0, peak := 1 } } }
    let wrong := { State.reset with welt := { Welt.reset with area := 0x801 } }
    (State.reset.anyBusy = false ∧ ∀ i : Fin 7, State.reset.welt.use[i].used = 0) ∧ (up id).anyBusy = true ∧
      (¬ ∀ i : Fin 7, used.welt.use[i].used = 0) ∧ wrong.wltCheck ≠ 0 ∧ State.reset.wltCheck = 0 := by decide
theorem wit_WeltAndScrubs_grant : ∀ c ∈ [WeltClass.req, .rsp, .fwd, .col, .ing, .mem, .ctl],
    let i := classIdx c
    let q := blockFor 0 0
    let w := { Welt.reset with wait := vput Welt.reset.wait i [q] }
    (up id).fastOn = true ∧ w.nextWait c = some q ∧ q.isInput = false ∧ (w.source c q.owner).isSome = true ∧
      Welt.reset.nextWait c = none := by decide +kernel
theorem wit_WeltAndScrubs_scrub :
    (up id).fastOn = true ∧ (up id).welt.scrubEn = true ∧ (up id).welt.beats.length < 2047 ∧ SMap.wf 0 (up id).welt.beats = true ∧
      ∀ k : StackId, ((up id).stack[k]).state = .ready ∧ ((up id).stack[k]).scrubEn = true := by decide
theorem wit_InsoleCommands_map :
    let wrong := { State.reset with ins := { InsMap.reset with lambda := 63, sigma := 1 } }
    (up id).mapQuiet = false ∧ State.reset.mapQuiet = true ∧ wrong.mapQuiet = true ∧ wrong.ins.take.check ≠ 0 ∧
      State.reset.ins.take.check = 0 ∧ State.reset.anyBusy = false ∧ (State.reset.stack[(0 : StackId)]).queue = [] ∧
      (∀ j : StackId, (tableOf State.reset.stack[j]).twin = [] ∧ (State.reset.stack[j]).decisions = []) := by decide
theorem wit_InsoleCommands_stack :
    let back := (up id).modStack 0 fun x => { x with state := .resetting, clearing := true }
    State.reset.isActive = false ∧ (up id).isActive = true ∧ (State.reset.stack[(0 : StackId)]).state = .ready ∧ back.fastOn = true ∧
      (back.stack[(0 : StackId)]).state = .resetting ∧ (State.reset.stack[(0 : StackId)]).throttle.toNat ≤ 3 ∧
      100 ≤ (100 : BitVec 8).toNat ∧ (82 : BitVec 8).toNat < 83 := by decide

/-! ### Premises: launch, stop and communicators -/

theorem wit_CoresLaunch :
    let s := State.reset
    let faulted := { s with clk := { s.clk with state := .fault } }
    (¬ ((s.core 0).busy = true ∨ (s.core 0).phase ≠ .service ∨ s.clk.state = .fault)) ∧ ((up id).core 0).busy = true ∧
      faulted.clk.state = .fault ∧ (2 : BitVec 8) ≠ 1 := by decide
theorem wit_CoresStop :
    let flag := fun (s : State) => { s with step := { s.step with flagSent := true } }
    let waits := flag (up fun c => { c with hold := .commitWait 2, reg := { c.reg with run := .waiting } })
    let runs := flag (up id)
    let ends := flag (up fun c => { c with stopping := true })
    runs.step.flagSent = true ∧ runs.step.flagDone = false ∧ runs.coll.comms = [] ∧ ((flag State.reset).core 0).busy = false ∧
      (runs.core 0).busy = true ∧ (runs.core 0).hold = .none ∧ (runs.core 0).allIdle = true ∧ runs.coll.active = [] ∧
      (waits.core 0).busy = true ∧ (waits.core 0).hold = .commitWait 2 ∧ (ends.core 0).stopping = true ∧
      (ends.core 0).allIdle = true ∧ (ends.core 0).region = none := by decide
theorem wit_CommunicatorsApply :
    let s := wired id
    let idle := { s with cores := State.reset.cores }
    let off := { idle with coll := { idle.coll with comms := [(0, { CommSt.reset with comm := 0x1020, slots := 16 })] } }
    let wrong := { idle with coll := { idle.coll with comms := [(0, { CommSt.reset with comm := 0x10000001020 })] } }
    s.commQuiet 0 = false ∧ idle.commQuiet 0 = true ∧ bitOf (idle.comm 0).comm 40 = true ∧
      idle.commCheck 0 (idle.comm 0).comm (idle.comm 0).slots.toNat = 0 ∧ SMap.wf CommSt.reset idle.coll.comms = true ∧
      SMap.wf 0 (idle.core (commCore (idle.comm 0).comm)).seq = true ∧ off.commQuiet 0 = true ∧ bitOf (off.comm 0).comm 40 = false ∧
      wrong.commQuiet 0 = true ∧ wrong.commCheck 0 (wrong.comm 0).comm (wrong.comm 0).slots.toNat ≠ 0 := by decide

/-! ### Premises: the Clicker and the control complex -/

/-- A profile of one 16 × 16 patch per picture of mode 1 in int8, its staging area of 64 MiB at 1 MiB. -/
def profMem : Memory :=
  [(0, 16), (2, 16), (4, 16), (5, 1), (6, 1), (7, 7), (74, 16), (83, 4)]

/-- The part with m in the first bytes of Insole memory and the loader changed by f. -/
def loading (m : Memory) (f : Clicker → Clicker) : State :=
  let s := (wired id).modStack 0 fun x => { x with dram := m }
  { s with ing := f Clicker.reset
           coll := { s.coll with comms := [(0, { CommSt.reset with on := some (fields [(12, 1), (10, 3), (40, 1)], 16) })] } }

/-- A loader that would read the segment of connection 0. -/
def filling (c : Clicker) : Clicker :=
  { c with state := .filling, gBatch := 1, gEntries := 1, gTbl := 0x10, gConn := 0x20, gNbatch := 2, slots := [.filling, .free]
           port := vput c.port 0 { EthPort.reset with up := true, disable := false } }

/-- One segment of 256 B on connection 0, whose entry is of version 1, MTU code 3 and timeout 8. -/
def segMem : Memory := [(1037, 1), (2048 + 47, 3), (2048 + 48, 8), (2048 + 51, 1)]

/-- A connection with a read of 256 B outstanding. -/
def reading (retries : Nat) : RoceConn := { psn := 1, reads := [(0, 256)], retries := retries, error := false, used := true, cnp := false, blocks := [false] }

/-- Whether the configuration that go takes passes also turns on the sample width, which is open (entry 88); one that
fails does not. -/
theorem wit_LoaderCommands_wrong :
    let s := loading [] id
    s.fastOn = true ∧ s.ing.state = .idle ∧ ({ s with ing := takenLoader s } : State).goErr ≠ 0 := by decide +kernel
theorem wit_LoaderCommands_states :
    (loading [] filling).ing.state ≠ .idle ∧ (loading [] filling).ing.segBytes = 0 ∧ (loading [] filling).ing.held = 0 ∧
      (loading [] fun c => { filling c with segBytes := 1 }).ing.segBytes ≠ 0 ∧
      (loading [] fun c => { filling c with state := .full }).ing.state = .full ∧
      (loading [] fun c => { filling c with state := .stalled }).ing.state = .stalled := by decide
theorem wit_EthernetPorts :
    let s := loading [] filling
    s.fastOn = true ∧ s.ing.port[(0 : Port)].up = true ∧ s.ing.port[(0 : Port)].phase = .service ∧ s.ing.port[(4 : Port)].up = false ∧
      (∀ p : Port, (loading [] fun c => { c with port := Vector.replicate 8 { EthPort.reset with disable := false } }).ing.port[p].disable = false) ∧
      s.ing.conns = [] := by decide
theorem wit_EthernetPorts_conns : ∀ c : Conn, ((loading [] filling).conn c).used = false := fun _ => rfl
theorem wit_SegmentsAreRead_send :
    let s := loading segMem filling
    let x := s.conn 0
    let b := s.connEntry 0
    s.fastOn = true ∧ SMap.wf RoceConn.unused s.ing.conns = true ∧ s.ing.state = .filling ∧ s.ing.current < s.ing.gBatch.toNat ∧
      natAt s.curEntry 16 2 = 0 ∧ connValid b = true ∧ s.ing.port[connPort b].up = true ∧
      bitOf s.ing.port[connPort b].paused (natAt b 50 1) = false ∧ x.reads = [] ∧ 0 < min maxRead (s.segLength - 0) ∧
      s.ing.decode.length < 256 ∧ (s.welt.claimAll .ing clickerBlocks 1).2.isSome = true ∧ blocksOf 256 = 1 ∧ s.segLength = 256 := by
  decide +kernel
theorem wit_SegmentsAreRead_invalid :
    let s := loading [(1037, 1)] filling
    natAt s.curEntry 16 2 = 0 ∧ (s.conn 0).used = false ∧ connValid (s.connEntry 0) = false := by decide +kernel
theorem wit_SegmentsAreRead_response :
    let s := loading segMem fun c => { filling c with conns := [(0, reading 0)], held := 1 }
    SMap.wf RoceConn.unused s.ing.conns = true ∧ (s.conn 0).reads = [(0, 256)] ∧ s.ing.state = .filling ∧
      s.ing.port[connPort (s.connEntry 0)].up = true ∧ (s.conn 0).used = true ∧ MemoriesWf s ∧ s.fastOn = true := by
  unfold MemoriesWf; decide +kernel
theorem wit_SegmentsAreRead_timeout : ∀ k ∈ [6, 7],
    let s := loading segMem fun c => { filling c with conns := [(0, reading k)], held := 1 }
    (s.conn 0).error = false ∧ (s.conn 0).reads ≠ [] ∧ (s.conn 0).used = true ∧ (s.conn 0).retries = k := by decide
/-- Whatever the width of a sample, which is open (entry 88), there is a block for a record. -/
theorem wit_BatchesBecomeReady_segment :
    let s := loading segMem fun c => { filling c with decode := [(0, [1, 2])], readSegs := 1 }
    let b := s.segEntry (s.entryIndex 0)
    s.fastOn = true ∧ MemoriesWf s ∧ s.ing.state = .filling ∧ (s.ing.decode.find? fun q => q.1 == 0) = some (0, [1, 2]) ∧
      (∀ wide, (s.welt.claimAll .ing clickerBlocks
        (blocksOf ((64 + (profileOf s.ing.gProf).payload wide + 63) / 64 * 64))).2.isSome = true) ∧
      (demux (natAt b 40 1) (natAt b 18 2) [1, 2]).audio = [] := by unfold MemoriesWf; decide +kernel
theorem wit_BatchesBecomeReady_batch :
    let s := loading segMem fun c => { filling c with doneSegs := [0], gSem := 1 }
    let later := { s with ing := { s.ing with posNo := 1 } }
    s.ing.gBatch.toNat ≤ s.ing.doneSegs.length ∧ s.ing.stopping = false ∧ (s.commOn s.ing.gComm).isSome = true ∧ (s.core 0).region = none ∧
      ((s.core 0).arch.semOf s.ing.gSem.toNat).count ≠ 65535 ∧ 0 < s.ing.slots.length ∧ s.ing.state ≠ .idle ∧
      s.ing.posNo ≤ s.attemptNo ∧ s.step.committing = none ∧ later.attemptNo < later.ing.posNo := by decide

/-- A frame of 60 B with an Ethertype: ARP's goes to the control complex from a data port. -/
def frame (hi lo : Byte) : List Byte := List.replicate 12 0 ++ [hi, lo] ++ List.replicate 46 0

/-- The part of loading with every Ethernet port up. -/
def ported (m : Memory) : State := loading m fun c => { c with port := Vector.replicate 8 { EthPort.reset with up := true, disable := false } }

theorem wit_FrameRings_receive :
    let s := ported []
    let full := { s with ctx := { s.ctx with rx := { s.ctx.rx with head := 16 } } }
    let none_ := { s with welt := { s.welt with resOn := Vector.replicate 7 { res := 0, cap := 0 } } }
    MemoriesWf s ∧ s.ethUp 0 = true ∧ s.ethUp 4 = true ∧ frameSize (frame 0x08 0x06) = true ∧ frameKind (frame 0x08 0x06) = .complex ∧
      natBE (frame 0x08 0x06) (typeOff (frame 0x08 0x06)) 2 ≠ 0x8808 ∧ frameKind (frame 0x88 0x08) ≠ .complex ∧
      natBE (frame 0x88 0x08) (typeOff (frame 0x88 0x08)) 2 = 0x8808 ∧
      (s.welt.claimAll .ing clickerBlocks (blocksOf 60)).2.isSome = true ∧ (none_.welt.claimAll .ing clickerBlocks (blocksOf 60)).2.isSome = false ∧
      s.ctx.rx.fill ≠ s.ctx.rx.slots ∧ full.ctx.rx.fill = full.ctx.rx.slots ∧ isEventMessage (frame 0x88 0xF7) = true ∧
      isEventMessage (frame 0x08 0x06) = false := by unfold MemoriesWf; decide +kernel
/-- A frame of 64 B that asks for its timestamp on port 4, one that asks for none, and one too short to be a frame. -/
theorem wit_FrameRings_transmit :
    let s := fun (m : Memory) => let x := ported m; { x with ctx := { x.ctx with tx := { x.ctx.tx with tail := 1 } } }
    let t := s [(0, 64), (2, 4), (3, 2)]
    (ported []).ctx.tx.head = (ported []).ctx.tx.tail ∧ t.ctx.tx.head ≠ t.ctx.tx.tail ∧ t.fastOn = true ∧ t.anyPoison false 0 64 = false ∧
      t.anyPoison false 64 64 = false ∧ t.ctx.tx.slotAt t.ctx.tx.head = 0 ∧ natAt (t.bytes false 0 64) 0 2 = 64 ∧
      natAt (t.bytes false 0 64) 2 1 = 4 ∧ natAt (t.bytes false 0 64) 3 1 / 2 % 2 = 1 ∧ frameSize (t.bytes false 64 64) = true ∧
      (t.welt.claimAll .ing clickerBlocks (blocksOf 64)).2.isSome = true ∧ t.ethUp 4 = true ∧
      bitOf t.ing.port[(4 : Port)].paused (framePrio (t.bytes false 64 64)) = false ∧
      natAt ((s [(0, 64)]).bytes false 0 64) 3 1 / 2 % 2 = 0 ∧ frameSize ((s [(0, 4)]).bytes false 64 4) = false ∧
      (17 - t.ctx.tx.head).toNat > t.ctx.tx.slots ∧ (16 - t.ctx.tx.head).toNat ≤ t.ctx.tx.slots := by decide +kernel

/-- A part whose control complex runs, with its caches changed by f. -/
def harts (f : Control → Control) : State := { up id with ctx := f { (up id).ctx with running := true } }

/-- A cached line. -/
def cacheLine (dirty : Bool) : CacheLine := { line := 1, next := false, dirty := dirty, data := List.replicate 64 7 }

/-- Hart 0's line 1 on its way to memory. -/
def backLine : WriteBack := { hart := some 0, line := 1, data := List.replicate 64 7 }

theorem wit_HartAccesses_registers :
    let s := harts id
    let inRegs := fun (a : Nat) => regBase ≤ a ∧ a < regBase + 0xB000000
    s.fastOn = true ∧ s.ctx.running = true ∧ (∀ n : Core, s.clk.gate[clusterOf n] = .on) ∧ ¬ inRegs 0x40 ∧
      ¬ inRegs 0x1FFFFFFFFFF8 ∧ s.reach 0x1FFFFFFFFFF8 8 = false ∧ s.reach 0x1FFFFFFFFFF8 1 = false ∧
      inRegs (regBase + 8) ∧ regOff (regBase + 8) = some 8 ∧ (s.readReg 8).isSome = true ∧
      inRegs (regBase + 4) ∧ regOff (regBase + 4) = none ∧ inRegs (regBase + 0x1F00000) ∧ regOff (regBase + 0x1F00000) = some 0x1F00000 ∧
      s.readReg 0x1F00000 = none := by decide +kernel
/-- A scratch of a core in service, and of one in reset. -/
theorem wit_HartAccesses_scratch :
    let s := harts id
    let held := { s with cores := vput s.cores 0 { s.core 0 with phase := .settling } }
    ¬ (regBase ≤ scratchBase ∧ scratchBase < regBase + 0xB000000) ∧ s.reach scratchBase 8 = true ∧ s.cacheable scratchBase = false ∧
      s.serves scratchBase = true ∧ (s.welt.claimAll .ctl ctlBlock 1).2.isSome = true ∧ s.anyPoison false scratchBase 8 = false ∧
      s.anyPoison true scratchBase 8 = false ∧ MemoriesWf s ∧ held.cacheable scratchBase = false ∧ held.serves scratchBase = false := by
  unfold MemoriesWf; decide +kernel
theorem wit_harts_noEpoch (f : Control → Control) : ∀ a, (harts f).ins.isEpoch a = false := reset_noEpoch
/-- A line that the caches hold, one they do not, and one they do not whose stack is in reset. -/
theorem wit_HartAccesses_cached :
    let hit := harts fun c => { c with cache := [cacheLine false] }
    let miss := harts id
    let off := miss.modStack 0 fun k => { k with state := .resetting }
    hit.reach 0x40 8 = true ∧ hit.cacheable 0x40 = true ∧ linesOf 0x40 8 = [1] ∧ hit.lineNext 1 = false ∧ (hit.cached false 1).isSome = true ∧
      (∀ y ∈ hit.ctx.cache, y.data.length = 64) ∧ miss.reach 0x40 8 = true ∧ miss.cacheable 0x40 = true ∧ miss.cached false 1 = none ∧
      miss.ctx.wb = [] ∧ miss.ctx.cache.length < cacheLines ∧ miss.serves 64 = true ∧ (miss.welt.claimAll .ctl ctlBlock 1).2.isSome = true ∧
      miss.anyPoison false 64 64 = false ∧ off.cacheable 0x40 = true ∧ off.misses false 1 = true ∧ off.serves 64 = false := by decide +kernel
/-- A dirty line, and write-backs under way: one of hart 0, one of none, and one whose stack is in reset. -/
theorem wit_HartAccesses_published :
    let s := harts fun c => { c with cache := [cacheLine true], wb := [backLine] }
    let free := harts fun c => { c with wb := [{ backLine with hart := none }] }
    let off := s.modStack 0 fun k => { k with state := .resetting }
    s.reach 0x40 1 = true ∧ s.ctx.wb = [backLine] ∧ backLine.hart = some 0 ∧ s.serves (backLine.line * 64) = true ∧
      (s.welt.claimAll .ctl ctlBlock 1).2.isSome = true ∧ MemoriesWf s ∧ (∀ w ∈ free.ctx.wb, w.hart ≠ some 0) ∧
      off.serves (backLine.line * 64) = false ∧ (harts id).ctx.wb = [] := by unfold MemoriesWf; decide +kernel
theorem wit_RegisterWrites : regOff (0 : Word).toNat = none ∧ regOff (BitVec.ofNat 64 (regBase + 1) : Word).toNat = none := by decide

/-! ### Premises: clocks, resets and trips -/

/-- The part with its clocks changed by f. -/
def clocked (f : Clocks → Clocks) : State := { up id with clk := f (up id).clk }
/-- The part with Cobbler's firmware running, at rest. -/
def booted : State :=
  { State.reset with clk := { (up id).clk with state := .ready }, cbl := { Cobbler.reset with recovery := false } }

theorem wit_Clocks_job :
    (clocked fun k => { k with state := .joined }).clk.state = .joined ∧ (up id).clk.state = .active ∧ (up id).anyBusy = true ∧
      ({ State.reset with clk := (up id).clk } : State).anyBusy = false ∧ booted.firmwareUp = true := by decide
theorem wit_Clocks_gate : ∀ c : Cluster,
    let s := booted
    let gated := fun (g : Gate) => ({ s with clk := { s.clk with gate := vput s.clk.gate c g, policyOn := 0xAA } } : State)
    s.fastOn = true ∧ s.clk.gate[c] = .on ∧ policyOf s.clk.policy c ≠ 0 ∧ s.clusterIdle c = true ∧
      (gated .clockGated).clk.gate[c] = .clockGated ∧ policyOf (gated .clockGated).clk.policyOn c = 2 ∧
      (gated .powerGated).clk.gate[c] = .powerGated ∧ (gated .waking).clk.gate[c] = .waking := by decide
theorem wit_Clocks_tick : State.reset.pending = [] ∧ (up id).pending = [] ∧ (up id).clk.state ≠ .off ∧ (up id).clk.locked = true ∧
    (clocked fun k => { k with locked := false }).clk.locked = false := by decide
theorem wit_ResetsAndFreeze :
    let low := clocked fun k => { k with state := .boot, dieReset := true, rstN := false, frzN := false }
    State.reset.clk.state = .off ∧ (up id).clk.state ≠ .off ∧ (up id).clk.dieReset = false ∧ low.clk.dieReset = true ∧
      low.clk.state = .boot ∧ low.clk.frzN = false ∧ (clocked fun k => { k with frzDrive := true }).clk.frzDrive = true ∧
      Runs (up id) ∧ ¬ Runs State.reset := by unfold Runs; decide

/-- The board in order. -/
def board : StartEnv := { rails := true, rref := true, supply := true, eeprom := true, failed := [] }
/-- A cold sample, and one of a stack that is too hot. -/
def cool : Sensors := { diodes := List.replicate 64 50, stack := List.replicate 24 50, volts := List.replicate 40 0, power := 100, stages := [] }
def hotStack : Sensors := { cool with stack := List.replicate 24 105 }

theorem wit_StartUpAndTrips_missing :
    let s := { booted with clk := { booted.clk with state := .standby, upStep := 4 } }
    s.firmwareUp = true ∧ s.clk.dieReset = false ∧ s.clk.state = .standby ∧ s.clk.upStep = 4 ∧ s.clk.target = true ∧
      ({ board with rails := false } : StartEnv).rails = false ∧ board.rails = true ∧ board.rref = true ∧ s.clk.frzN = true ∧
      ({ s.clk with frzN := false } : Clocks).frzN = false ∧ ¬ (booted.clk.state = .standby ∧ booted.clk.upStep = 4) := by decide
/-- Both slots empty: no image passes check 1. -/
theorem wit_StartUpAndTrips_recovery :
    let s := State.reset
    s.clk.dieReset = false ∧ s.clk.state = .off ∧ s.clk.upStep = 1 ∧ s.cbl.record.pending = none ∧
      ∀ b, s.cbl.verify (s.cbl.slot b) true ≠ 0 := by
  refine ⟨by decide, by decide, by decide, by decide, fun b => ?_⟩
  have h : (State.reset.cbl.slot b).layoutOk = false := by cases b <;> decide
  simp [Cobbler.verify, h]
theorem wit_StartUpAndTrips_trips :
    Runs (up id) ∧ (up id).clk.lock = true ∧ (up id).clk.stages = true ∧ State.reset.clk.lock = false ∧ booted.firmwareUp = true ∧
      Runs booted ∧ sensorTrips hotStack 0 = true ∧ sensorTrips cool 1 = false := by unfold Runs; decide +kernel
/-- An image whose five components have digests that their bytes have passes, with the digest what it may be. -/
theorem wit_StartUpAndTrips_ready :
    booted.firmwareUp = true ∧ ({ booted with clk := { booted.clk with state := .boot, upStep := 6 } } : State).clk.upStep = 6 ∧
      board.failed = [] ∧ ({ board with failed := [3] } : StartEnv).failed ≠ [] := by decide

/-! ### Premises: management -/

/-- Session 0 is open, of class O where op is set; the mailbox holds command code of tag 7. -/
def managed (op : Bool) (code : Nat) : State :=
  { booted with cbl := { booted.cbl with
      sessions := vput booted.cbl.sessions 0 { isOpen := true, operator := op }, mbState := .busy
      mbReq := vput booted.cbl.mbReq 0 (fields [(0, code), (16, 7)]) } }

theorem wit_Barred :
    booted.asks (.session 0) 0x23 7 = false ∧ booted.asks .mailbox 1 7 = false ∧ (managed false 0x23).asks (.session 0) 0x23 7 = true ∧
      ¬ Admits (managed false 0x23) (.session 0) true false ∧ (managed false 0x23).asks .mailbox 0x23 7 = true ∧
      ¬ Admits (managed false 0x23) .mailbox true false ∧ Admits (managed false 1) .mailbox false true ∧
      ({ managed true 1 with cbl := { (managed true 1).cbl with recovery := true } } : State).cbl.recovery = true := by
  unfold Admits; decide
theorem wit_MayRun : MayRun (managed true 1) (.session 0) 0x23 7 true false ∧ MayRun (managed true 5) .mailbox 5 7 false true := by
  unfold MayRun Admits; decide
theorem wit_ManagementCommands : (managed false 0x99).asks .mailbox 0x99 7 = true ∧ knownCodes.contains 0x99 = false := by decide
theorem wit_FirmwareAndFuses_updates :
    let s := managed true 1
    let other := { s with cbl := { s.cbl with update := some .mailbox } }
    other.updateBusy (.session 0) = true ∧ s.updateBusy (.session 0) = false ∧ slotSize < slotSize + 1 ∧ s.cbl.runningPending = false ∧
      ({ s with cbl := { s.cbl with runningPending := true } } : State).cbl.runningPending = true ∧
      s.cbl.verify (s.cbl.slot s.cbl.spare) false ≠ 0 := by
  refine ⟨by decide, by decide, by decide, by decide, by decide, ?_⟩
  have h : ((managed true 1).cbl.slot (managed true 1).cbl.spare).layoutOk = false := by decide
  simp [Cobbler.verify, h]
theorem wit_FirmwareAndFuses_fuses :
    let s := managed true 1
    let img := { s with cbl := { s.cbl with slotA := [(4, 3), (5, 2)] } }
    s.cbl.image.nat 4 1 ≤ s.cbl.arb ∧ img.cbl.arb < img.cbl.image.nat 4 1 ∧ img.cbl.image.nat 5 1 = 2 ∧ img.cbl.revoked 1 = false ∧
      ({ img with cbl := { img.cbl with fuses := [(0x140, 2)] } } : State).cbl.revoked 1 = true ∧ s.cbl.fuses.wf = true ∧
      s.cbl.fuses.zeros 0x200 256 = true ∧
      (∀ g ∈ [1, 2, 3, 4], Memory.zeros [(0x200, 1), (0x300, 1), (0x400, 1), (0x500, 1)] (0x200 + 256 * (g - 1)) 256 = false) ∧
      (List.replicate 256 (0 : Byte)).length = 256 ∧ s.clk.state = .ready := by decide +kernel
theorem wit_PartCommands :
    let s := managed true 1
    let standby := { s with clk := { s.clk with state := .standby } }
    let frozen := { s with clk := { s.clk with state := .frozen, prev := .ready } }
    standby.clk.state = .standby ∧ s.isActive = false ∧ (clocked id).isActive = true ∧ s.testBusy .fuses = false ∧
      (clocked id).testBusy (.ethLoop 0) = true ∧ frozen.clk.state = .frozen ∧ frozen.firmwareUp = true ∧
      (spaceSize 0 0).isSome = true ∧ spaceSize 99 0 = none ∧ frozen.frozenBad 0 0 0 = false := by decide +kernel
theorem wit_LogAndMailbox :
    let s := managed true 1
    let said := fun (p : Option (Reply × Nat)) => ({ s with cbl := { s.cbl with mbState := .reply, pieces := p } } : State)
    s.firmwareUp = true ∧ s.cblUp = true ∧ s.cbl.unmirrored.length + s.awl.healthNew.length ≤ 1024 ∧
      s.cbl.mirror.length + s.cbl.unmirrored.length ≤ 65536 ∧ s.cbl.unmirrored.length + s.awl.held.length < 1024 ∧
      (∀ j : Fin 4, j < 1 → (s.cbl.sessions[j]).isOpen = true) ∧ (s.cbl.sessions[(1 : Fin 4)]).isOpen = false ∧
      State.reset.cbl.mbState = .idle ∧ (said none).cbl.mbState = .reply ∧ (said none).cbl.notices = [] ∧
      (said (some ({ code := 2, tag := 7, status := .ok, detail := 0, payload := List.replicate 300 0 }, 1))).cbl.pieces.isSome = true := by
  decide
theorem wit_UnitResets :
    let s := managed true 1
    let phase := fun (x : UnitPhase) => ({ up (fun c => { c with phase := x }) with
      step := { StepUnit.reset with flagSent := true }, ctx := { Control.reset with phase := x }, cbl := { Cobbler.reset with phase := x }
      ing := { Clicker.reset with port := Vector.replicate 8 { EthPort.reset with phase := x } } } : State)
    let stack := fun (x : StackState) => (up id).modStack 0 fun k => { k with state := x }
    MayRun s (.session 0) 0x50 7 true false ∧ s.isActive = false ∧ s.clocked (.core 0) = true ∧ InService s (.core 0) ∧
      InService s (.cluster 1) ∧ InService s (.stack 2) ∧ InService s (.link 3) ∧ InService s (.eth 4) ∧ InService s .ctx ∧
      InService s .cobbler ∧ InService s .die ∧ ((phase .settling).core 0).phase = .settling ∧
      ((phase .returning).core 0).phase = .returning ∧ (phase .settling).settling .ctx = true ∧ (phase .settling).settling (.eth 0) = true ∧
      ((stack .quiescing).stack[(0 : StackId)]).state = .quiescing ∧ ((stack .resetting).stack[(0 : StackId)]).queue = [] ∧
      Runs (phase .settling) ∧ (phase .settling).clocked (.core 0) = true ∧ s.settling (.core 0) = false ∧
      (phase .returning).cbl.heldReset = false ∧ (phase .returning).cbl.notices = [] ∧ (phase .returning).cbl.record.pending = none := by
  unfold MayRun Admits InService Runs; decide
theorem wit_steps :
    (∃ t, step { State.reset with pending := [.fabClrCnt] } = Host.Outcome.next t) ∧ MemoriesWf State.reset :=
  ⟨⟨_, rfl⟩, by unfold MemoriesWf; decide⟩

/-! ### Well-formedness and words -/

/-- A packet of 4,097 bytes. -/
def longPkt : Packet := pkt 1 0 0 0 0 (List.replicate 4097 0)

/-- An ill-formed term for each check, which the check refuses; a well-formed one, which it takes. -/
theorem test_wf_packet : (Instr.inboundWriteReceive 0 longPkt).wf = false ∧ (Instr.inboundWriteReceive 0 writePkt).wf = true := by decide +kernel
theorem test_wf_frame : (Instr.identityFrameReceive 0 [1]).wf = false ∧ (Instr.identityFrameReceive 0 (frameOf 9 0x21)).wf = true := by
  decide +kernel
theorem test_wf_access : (Instr.ccMemoryAccess 0 { addr := 0, bytes := 3, op := .load, data := 0, ecc := .clean }).wf = false ∧
    ∀ n ∈ [1, 2, 4, 8], (Instr.ccMemoryAccess 0 { addr := 0, bytes := n, op := .load, data := 0, ecc := .clean }).wf = true := by decide
theorem test_wf_picture :
    (let bad : Plane := { w := 2, h := 2, x := [0] }
     Picture.wf { luma := bad, cb := bad, cr := bad, pts := 0, lost := [] }) = false ∧
    (let good : Plane := { w := 2, h := 1, x := [0, 1] }
     Picture.wf { luma := good, cb := good, cr := good, pts := 0, lost := [] }) = true := by decide
theorem test_wf_sensors : (Instr.sensorSample { cool with stack := [50] }).wf = false ∧ (Instr.sensorSample cool).wf = true := by decide
theorem test_wf_nonce : (Instr.getQuote .mailbox 0 [1]).wf = false ∧ (Instr.getQuote .mailbox 0 (List.replicate 64 1)).wf = true := by decide
theorem test_wf_fwWrite : (Instr.fwWrite .mailbox 0 0 []).wf = false ∧ (Instr.fwWrite .mailbox 0 0 [1]).wf = true := by decide
theorem test_wf_fwRevoke : (Instr.fwRevoke .mailbox 0 4).wf = false ∧ (Instr.fwRevoke .mailbox 0 3).wf = true := by decide
theorem test_wf_measure : (Instr.measure .mailbox 0 3 (List.replicate 64 0)).wf = false ∧ (Instr.measure .mailbox 0 8 (List.replicate 64 0)).wf = false ∧
    (Instr.measure .mailbox 0 4 []).wf = false ∧ (Instr.measure .mailbox 0 7 (List.replicate 64 0)).wf = true := by decide
theorem test_wf_readFrozen : (Instr.readFrozen .mailbox 0 0 0 0 65537 []).wf = false ∧ (Instr.readFrozen .mailbox 0 0 0 0 65536 []).wf = true := by
  decide
/-- No row of the opcode table gives bits, so no word spells a command and none is placed. -/
theorem test_no_word : (∀ n w, decodeTableWord n w = none) ∧ State.reset.withFetchWord 16 5 = State.reset := ⟨fun _ _ => rfl, rfl⟩

/-! ### One step each: expected values from the spec's rules and worked examples -/

/-- What a command leaves. -/
def after (i : Instr) (s : State) : State :=
  match exec i s with
  | .next t => t
  | _ => s

/-- Core 0 after a command. -/
def core0 (i : Instr) (s : State) : CoreSt := (after i s).core 0
/-- A scalar register of core 0 after it. -/
def s_ (i : Instr) (s : State) (k : Nat) : Word := (core0 i s).arch.sreg k

/-- A word of format R or I: sd, sa, sb and the low bits. -/
def wordR (sd sa sb low : Nat) : BitVec 48 := BitVec.ofNat 48 (sd * 2 ^ 42 + sa * 2 ^ 36 + sb * 2 ^ 30 + low)

/-- s1 all ones, s2 two, s3 the most negative number. -/
def nums : State := up (withS [0xFFFFFFFFFFFFFFFF, 2, 0x8000000000000000])

/-- R195's rows, at a wrap, a sign and a shift of 65 mod 64. -/
theorem test_scalar : s_ (.sAdd 0 (wordR 5 1 2 0)) nums 5 = 1 ∧ s_ (.sSub 0 (wordR 5 2 1 0)) nums 5 = 3 ∧
    s_ (.sMul 0 (wordR 2 1 2 0)) nums 2 = 0xFFFFFFFFFFFFFFFE ∧ s_ (.sSar 0 (wordR 5 3 2 0)) nums 5 = 0xE000000000000000 ∧
    s_ (.sShr 0 (wordR 5 3 2 0)) nums 5 = 0x2000000000000000 ∧ s_ (.sShl 0 (wordR 5 2 1 0)) nums 5 = 0 ∧
    s_ (.sMin 0 (wordR 5 1 2 0)) nums 5 = 0xFFFFFFFFFFFFFFFF ∧ s_ (.sMinu 0 (wordR 5 1 2 0)) nums 5 = 2 ∧
    s_ (.sMax 0 (wordR 5 3 2 0)) nums 5 = 2 ∧ s_ (.sMaxu 0 (wordR 5 3 2 0)) nums 5 = 0x8000000000000000 := by decide
/-- The control words of the convolution pass, built as the worked example of the instruction reference builds them. -/
theorem test_immediate : s_ (.sLi 0 (wordR 8 0 0 0x40000)) nums 8 = 0x40000 ∧
    s_ (.sLui 0 (wordR 8 8 0 0x62000000)) (up (withS [0, 0, 0, 0, 0, 0, 0, 0x40000])) 8 = 0x6200000000040000 ∧
    s_ (.sLui 0 (wordR 9 9 0 0x00219000)) (up (withS [0, 0, 0, 0, 0, 0, 0, 0, 0x900000])) 9 = 0x0021900000900000 ∧
    s_ (.sLi 0 (wordR 8 0 0 0xFFFFFFFF)) nums 8 = 0xFFFFFFFFFFFFFFFF ∧ s_ (.sAndi 0 (wordR 5 1 0 0xFFFFFFFF)) nums 5 = 0xFFFFFFFF := by decide
/-- A write to s0 is discarded; a set reserved bit faults with cause 0x02 and keeps the address. -/
theorem test_scalar_faults : s_ (.sAdd 0 (wordR 0 1 2 0)) nums 0 = 0 ∧ (core0 (.sAdd 0 (wordR 5 1 2 1)) nums).reg.run = .faulted ∧
    (core0 (.sAdd 0 (wordR 5 1 2 1)) nums).reg.faultCause = 0x02 ∧ (core0 (.sAddi 0 (wordR 5 1 4 0)) nums).reg.faultCause = 0x02 := by decide
/-- R196: little-endian bytes, zero-extended; offsets beyond the scratch and misaligned ones fault. -/
theorem test_scratch :
    s_ (.sLdh 0 (wordR 5 0 0 2) .clean) (up (withMem [(2, 0x34), (3, 0xF2)])) 5 = 0xF234 ∧
      (core0 (.sStw 0 (wordR 3 0 0 4)) (up (withS [0, 0, 0x8000000012345678]))).arch.scratch = [(4, 0x78), (5, 0x56), (6, 0x34), (7, 0x12)] ∧
      (core0 (.sLdb 0 (wordR 5 0 0 0x800000) .clean) nums).reg.faultCause = 0x0D ∧
      (core0 (.sLdd 0 (wordR 5 0 0 4) .clean) nums).reg.faultCause = 0x04 := by decide
/-- R197's examples: 0b1000 is AND, 0b0110 is XOR, 0b0011 is NOT pa; LT is signed and LTU is not. -/
theorem test_predicates :
    let s := up fun c => { c with arch := c.arch.setP 1 true }
    let log := fun (cc pa pb : Nat) => (core0 (.pLog 0 (BitVec.ofNat 48 (7 * 2 ^ 45 + pa * 2 ^ 42 + pb * 2 ^ 39 + cc * 2 ^ 35))) s).arch.pred 7
    log 8 1 0 = true ∧ log 8 1 2 = false ∧ log 6 1 2 = true ∧ log 3 1 0 = false ∧ log 3 2 0 = true ∧
      (core0 (.pCmp 0 (BitVec.ofNat 48 (7 * 2 ^ 45 + 2 * 2 ^ 35 + 2 ^ 29 + 2 * 2 ^ 23))) nums).arch.pred 7 = true ∧
      (core0 (.pCmp 0 (BitVec.ofNat 48 (7 * 2 ^ 45 + 4 * 2 ^ 35 + 2 ^ 29 + 2 * 2 ^ 23))) nums).arch.pred 7 = false ∧
      (core0 (.pCmpi 0 (BitVec.ofNat 48 (7 * 2 ^ 45 + 2 ^ 29 + 0xFFFF))) nums).arch.pred 7 = true := by decide
/-- R198: off counts words of 8 B from the branch; CALL links the word after it. -/
theorem test_branches :
    let s := up fun c => { c with arch := { c.arch with pc := 16 } }
    (core0 (.br 0 0xFFFFFFFF) s).arch.pc = 8 ∧ (core0 (.br 0 (fieldAt 47 1)) s).arch.pc = 24 ∧
      (s_ (.call 0 (BitVec.ofNat 48 (7 * 2 ^ 38 + 3))) s 7 = 24 ∧ (core0 (.call 0 (BitVec.ofNat 48 (7 * 2 ^ 38 + 3))) s).arch.pc = 40) ∧
      (core0 (.jr 0 (fieldAt 32 1)) (up (withS [4]))).reg.faultCause = 0x04 := by decide
/-- R61, R63, R199: waiting subtracts k and collects the status; a signal at 65,535 faults with cause 0x0C. -/
theorem test_semaphores :
    let s := up fun c => { c with arch := c.arch.setSem 4 { count := 3, status := .timeout } }
    let w := wordR 5 4 0 2
    ((core0 (.semWait 0 w) s).arch.semOf 4).count = 1 ∧ s_ (.semWait 0 w) s 5 = 0x10 ∧ ((core0 (.semWait 0 w) s).arch.semOf 4).status = .ok ∧
      (core0 (.semWait 0 (wordR 5 4 0 4)) s).hold = .semWait 5 4 4 ∧
      (core0 (.semSig 0 (wordR 0 1 0 0)) (up fun c => { c with arch := c.arch.setSem 1 { count := 65535, status := .ok } })).reg.faultCause = 0x0C := by
  decide
/-- The convolution pass of the worked example: the word 0x2001_1C82_4010_C000 queues with the scalars of s8, s9 and s0. -/
theorem test_pass_word :
    let s := up fun c => { c with arch := (c.arch.setS 8 0x6200000000040000).setS 9 0x0021900000900000 }
    let c := core0 (.mxPass 0 0x1C824010C000) s
    c.mx.waiting.map (fun e => (e.op, e.a, e.b, e.c)) = [(.mxPass, 0x6200000000040000, 0x0021900000900000, 0)] ∧ c.arch.pc = 8 ∧
      tailSen 0x1C824010C000 = true ∧ tailSsem 0x1C824010C000 = 3 ∧ tailWcnt 0x1C824010C000 = 0 := by decide
/-- A branch holds until its line is in the buffer (R53). -/
theorem test_line : (core0 (.br 0 0x8) (up id)).hold = .line 1 := by decide
/-- SYS.HALT (R68): once the queues are idle the code is written and the interrupt raised. -/
theorem test_halt :
    let t := after (.sysHaltComplete 0) (up fun c => { c with hold := .halt 0x1234 })
    (t.core 0).reg.run = .halted ∧ (t.core 0).reg.haltCode = 0x1234 ∧ t.ctx.pend = 1 := by decide

/-- F32 0x3E99_999A into V8P, as the worked example of the number formats rounds it under each mode and draw. -/
theorem test_round_v8p :
    let x := f32 0x3E99999A
    (roundTo .v8p .rne x).1 = 0x2A ∧ (roundTo .v8p .rtz x).1 = 0x29 ∧ (roundTo .v8p (.sr 0x3000) x).1 = 0x29 ∧
      (roundTo .v8p (.sr 0xA000) x).1 = 0x2A := by decide
/-- The V4 block of the worked example: scale 0x7E, and 2.7, 1.3 and −0.2 as 7, 5 and 9. -/
theorem test_round_v4 :
    let q := fun (x : BitVec 32) => (roundTo .v4 .rne ((f32 x).scale 1)).1
    scaleOf 6 (f32 0x402CCCCD) = 0x7E ∧ q 0x402CCCCD = 7 ∧ q 0x3FA66666 = 5 ∧ q 0xBE4CCCCD = 9 := by decide +kernel
/-- The small update of the worked example: 0x3F7F_DF3B into V16. -/
theorem test_small_update :
    let x := f32 0x3F7FDF3B
    addF 0x3F800000 0xBA03126F = 0x3F7FDF3B ∧ (roundTo .v16 .rne x).1 = 0x3F80 ∧ (roundTo .v16 (.sr 8389) x).1 = 0x3F80 ∧
      (roundTo .v16 (.sr 8388) x).1 = 0x3F7F := by decide +kernel
/-- R182's draw for the counter of its worked example, c0 0x0000_0007_0203_0011 and c1 0x1000_0000_0009_6025, under key
0x0123_4567_89AB_CDEF: computed by hand from the mix. -/
theorem test_draw : draw 0x0123456789ABCDEF 7 0x0203 0x0011 1 0 614437 = 0x956A := by decide
/-- The check value of CRC-32C: of the nine digits, 0xE306_9283. -/
theorem test_crc : crc32c [0x31, 0x32, 0x33, 0x34, 0x35, 0x36, 0x37, 0x38, 0x39] = 0xE3069283 := by decide +kernel
/-- The two addresses of the worked example of the Insole map, under λ 8 and σ 1. -/
theorem test_insole_map :
    let m := { InsMap.reset with lambdaOn := 8, sigmaOn := 1 }
    m.place 0x12345678 = some (21, 0xC22678) ∧ m.place 0x15400001000 = some (5, 0xDC0001000) ∧ m.place 0x17A00000000 = none := by decide
/-- The remote address of the worked example of the address map: part (6, 12, 0, 30). -/
theorem test_remote_address :
    let a := 0xBC19800012345678
    addrForm a = 2 ∧ addrCoord a = 0xF066 ∧ addrLocal a = 0x12345678 ∧ packCoord 6 12 0 30 = 0xF066 := by decide
/-- The record of the worked example of the Clicker: 256 × 256 pictures, 16 × 16 patches, 2 frames, INT8. -/
theorem test_records :
    let x := profileOf ([0, 1, 0, 1, 16, 2, 1, 7] ++ List.replicate 120 0)
    x.payload false = 1536 ∧ x.recsFor 64 = 8192 := by decide
/-- The two cables swapped of the worked example of the fabric: both ports quarantine with reason 8. -/
theorem test_swapped_cables :
    frameVerdict 2 0 (frameOf 5 0x21) = (.quarantine, 8) ∧ frameVerdict 4 0 (frameOf 3 0x21) = (.quarantine, 8) := by decide +kernel

/-- Launching core 5 with w at 0x2000_0000_0040 as the example of the control complex does (R66). -/
theorem test_launch :
    let s := { booted with cores := vput booted.cores 5 { CoreSt.reset with reg := { CoreRegs.reset with entry := 0x800, arg := 0x40 } } }
    let t := after (.coreLaunchStart 5 1 true) s
    (t.core 5).reg.run = .running ∧ (t.core 5).arch.pc = 0x4000 ∧ (t.core 5).arch.sreg 1 = 0x40 ∧ (t.core 5).arch.sreg 2 = 5 ∧
      (t.core 5).isVoter = true ∧ (t.core 5).hold = .line 0x100 := by decide +kernel
/-- R65: level 2 is VERSION_MISMATCH; a running core is BUSY. -/
theorem test_launch_refused :
    (((after (.coreLaunchStart 5 2 true) booted).core 5).reg.lastStatus = .versionMismatch) ∧
      (core0 (.coreLaunchStart 0 1 true) (up id)).reg.lastStatus = .busy := by decide
/-- The first chunk of an all-gather goes out by port 0 on channel 6: class 3, no dateline crossed (R305, R336). -/
theorem test_chunk_send :
    ((after (.chunkSend 0 gatherKey) (collecting gathering)).fab.inject.map fun x => (x.1, x.2.1, x.2.2.payload, x.2.2.dst)) = [(0, 6, [1, 2], 1)] := by
  decide +kernel
/-- A READ for this part is answered with the bytes at its address (R297). -/
theorem test_inbound_read :
    let s := wired (withMem [(0x41, 9)])
    let t := after (.inboundReplySend .clean) (after (.inboundReadReceive 0 readPkt) s)
    (t.fab.inject.map fun x => (x.2.2.dst, x.2.2.kind, x.2.2.payload.take 2, x.2.2.payload.length)) = [(1, 2, [0, 9], 64)] := by
  decide +kernel
/-- A CRC error is counted in FAB_ERR of its port and nothing else happens (R301). -/
theorem test_bad_crc : (after (.inboundReadReceive 0 { readPkt with good := false }) (wired id)).fab.port[(0 : Port)].crc = 1 := by decide
/-- A decision whose rounds are clean commits; with a dirty word it aborts and the attempt advances (R363, R365). -/
theorem test_decide :
    (after (.cleDecideCommit 0 0 0) (voting bothDone)).step.decision = .commit ∧
      (after (.cleDecideCommit 0 0 4) (voting bothDone)).step.decision = .abort ∧
      (after (.cleDecideCommit 0 0 4) (voting bothDone)).step.attempt = 1 ∧
      (after (.cleDecideCommit 0 0 4) (voting bothDone)).step.lastStatus = .aborted := by decide +kernel
/-- The neighbour's word completes the flag round: bits of both are ORed and interrupt 16 is raised (R358, R359, R362). -/
theorem test_vote_round :
    let t := after (.stepVoteReceive 0 (stepPkt 0 1 [5, 0, 0, 0, 0, 0, 0, 0])) (voting fun t => { inFlag t with word := 0x10 })
    t.step.flagWord = 0x15 ∧ t.step.flagDone = true ∧ t.ctx.pend = 0x10000 := by decide +kernel
/-- R311: a fence takes an UP port to FENCED with reason 12 and the part with it. -/
theorem test_fence :
    let t := after (.fabFenceSet 5) (wired id)
    t.fab.fenced = true ∧ t.fab.port[(0 : Port)].state = .fenced ∧ t.fab.port[(0 : Port)].reason = 12 ∧ t.clk.state = .fenced ∧
      t.fab.port[(1 : Port)].state = .down := by decide +kernel
/-- R463: with no limit holding, both limits rise to their tops and stay. -/
theorem test_limits :
    let t := after .clockLimitStep { booted with clk := { booted.clk with aclkLim := 15, cclkLim := 32 } }
    t.clk.aclkLim = 16 ∧ t.clk.cclkLim = 32 := by decide
/-- R465: a tick of AOCLK is 40 ns. -/
theorem test_tick :
    (match step { booted with clk := { booted.clk with locked := false, time := 0 } } with
      | .next t => t.now
      | _ => 0) = 40 := by decide
/-- R11, R502: CTX_IRQPEND loses the bits written 1. -/
theorem test_irq_clear :
    (after (.registerWrite (BitVec.ofNat 64 (regBase + 0x7000000)) 0x20) { booted with ctx := { booted.ctx with pend := 0x30 } }).ctx.pend = 0x10 := by
  decide
/-- R437: FUSE_GEN programs the first unprogrammed generation. -/
theorem test_fuse_gen :
    (after (.fuseGen (.session 0) 7 (1 :: List.replicate 255 0) true) (managed true 0x30)).cbl.fuses = [(0x200, 1)] := by decide +kernel
/-- R454: an unknown code is answered with ABORTED and detail 0x80 under its tag. -/
theorem test_unknown : (after (.mgmtUnknownCommand (.session 0) 0x99 7) (managed true 0x99)).cbl.replies[0] =
    some { code := 0x99, tag := 7, status := .aborted, detail := 0x80, payload := [] } := by decide +kernel
/-- R442: a part whose slots are empty starts in recovery, and answers a doorbell. -/
theorem test_doorbell : (after .cblDoorbell booted).cbl.mbState = .busy ∧ (after .cblDoorbell State.reset).cbl.lastStatus = .refusedReset := by decide
/-- R472: FRZ_N low freezes a part that runs, keeping the counter. -/
theorem test_freeze :
    let t := after .frzNLow { booted with clk := { booted.clk with time := 2 ^ 32 * 77 } }
    t.clk.state = .frozen ∧ t.clk.prev = .ready ∧ t.awl.frzTime = 77 := by decide +kernel
/-- R386, R390: PFC pauses the priorities it names until the pause ends. -/
theorem test_pfc :
    (after (.pfcFrameReceive 0 0x0C 100) (loading [] filling)).ing.port[(0 : Port)].paused = 0x0C ∧
      (after (.pfcPauseExpiry 0 0x04) (after (.pfcFrameReceive 0 0x0C 100) (loading [] filling))).ing.port[(0 : Port)].paused = 0x08 := by
  decide
/-- R387: the read of a 256 B segment at MTU 1,024 takes one block and one sequence number. -/
theorem test_rdma_read :
    let t := after (.rdmaReadSend 0) (loading segMem filling)
    (t.conn 0).reads = [(0, 256)] ∧ (t.conn 0).psn = 1 ∧ t.ing.held = 1 := by decide +kernel

end Sys2Proof.Tests
end

section
/-! What a write of memory stores and what it leaves, where no epoch range is in effect (R54, R236, R253, R254): every byte by
the last cell that lies on it, every memory canonical, and nothing of the part outside its memories. And that an interrupt
raised is pending (R423). -/

namespace Sys2Proof.Machine

/-! ### Places -/

/-- Where an address lies depends on the Insole map and the Welt's area alone, E and E+1 being one copy. -/
theorem State.locate_congr {s t : State} (he : ∀ a, s.ins.isEpoch a = false) (hi : t.ins = s.ins)
    (ha : t.welt.areaOn = s.welt.areaOn) (b d : Bool) (a : Nat) : t.locate b a = s.locate d a := by
  unfold State.locate
  rw [hi, ha]
  simp only [he, Bool.false_eq_true, if_false]

theorem cellFor_congr {s t : State} (he : ∀ a, s.ins.isEpoch a = false) (hi : t.ins = s.ins)
    (ha : t.welt.areaOn = s.welt.areaOn) (cells : List (Nat × Byte)) (l : Loc) : cellFor t cells l = cellFor s cells l := by
  simp only [cellFor, State.locate_congr he hi ha false false]

/-- Of two lists of cells the second decides. -/
theorem cellFor_append (s : State) (xs ys : List (Nat × Byte)) (l : Loc) :
    cellFor s (xs ++ ys) l = (cellFor s ys l).or (cellFor s xs l) := by
  simp only [cellFor, List.reverse_append, List.find?_append, Option.map_or]

/-- Put a byte at a place. -/
def State.putByte (s : State) (l : Loc) (b : Byte) : State :=
  match l with
  | .insole k off => s.modStack k fun x => { x with dram := x.dram.write off b }
  | .welt off => { s with welt := { s.welt with mem := s.welt.mem.write off b } }
  | .scratch n off => s.modArch n fun x => { x with scratch := x.scratch.write off b }

/-- Outside epoch ranges an Insole address lies where the map places it. -/
theorem State.locate_place (s : State) (he : ∀ a, s.ins.isEpoch a = false) (b : Bool) (a : Nat) (h : a < 0x18000000000) :
    s.locate b a = (s.ins.place a).map fun x => .insole x.1 x.2 := by
  unfold State.locate
  rw [if_pos h]
  simp only [he, Bool.false_eq_true, if_false]
  cases s.ins.place a <;> simp

/-- Above the Insole's range no address lies in a stack. -/
theorem State.locate_ne_insole (s : State) (b : Bool) (a : Nat) (h : ¬ a < 0x18000000000) (k : StackId) (o : Nat) :
    s.locate b a ≠ some (.insole k o) := by
  unfold State.locate
  rw [if_neg h]
  split
  · exact fun e => nomatch e
  · split <;> exact fun e => nomatch e

/-- Outside epoch ranges a byte is written where its address lies, or dropped. -/
theorem State.writeByte_eq (s : State) (he : ∀ a, s.ins.isEpoch a = false) (a : Nat) (b : Byte) :
    s.writeByte a b = (s.locate false a).elim s (s.putByte · b) := by
  rw [State.locate_congr (t := s) he rfl rfl false true]
  unfold State.writeByte
  by_cases h : a < 0x18000000000
  · rw [s.locate_place he true a h, if_pos h]
    simp only [he, Bool.false_eq_true, if_false]
    cases s.ins.place a <;> simp [State.putByte]
  · rw [if_neg h]
    cases hl : s.locate true a with
    | none => rfl
    | some l =>
      cases l with
      | insole k o => exact absurd hl (s.locate_ne_insole true a h k o)
      | welt o => rfl
      | scratch n o => rfl

/-- A byte read after a byte is put. -/
theorem State.byteAt_putByte (s : State) (hw : MemoriesWf s) (l m : Loc) (b : Byte) :
    (s.putByte l b).byteAt m = if m = l then b else s.byteAt m := by
  obtain ⟨hwelt, hstack, hcore⟩ := hw
  cases l with
  | insole k off =>
    cases m with
    | insole j o =>
      by_cases e : j = k
      · subst e
        simp only [State.putByte, State.byteAt, State.modStack_same, Memory.read_write _ _ _ _ (hstack j), Loc.insole.injEq,
          true_and]
      · simp [State.putByte, State.byteAt, State.modStack_ne _ _ _ _ e, e]
    | welt o => rfl
    | scratch n o => rfl
  | welt off =>
    cases m with
    | insole j o => rfl
    | welt o => simp [State.putByte, State.byteAt, Memory.read_write _ _ _ _ hwelt]
    | scratch n o => rfl
  | scratch n off =>
    cases m with
    | insole j o => rfl
    | welt o => rfl
    | scratch j o =>
      by_cases e : j = n
      · subst e
        have h : (s.core j).arch.scratch.wf = true := (hcore j).1
        simp [State.putByte, State.byteAt, Memory.read_write _ _ _ _ h]
      · simp [State.putByte, State.byteAt, State.modArch, State.modCore_ne _ _ _ _ e, e]

/-! ### Canonical memories -/

theorem memoriesWf_modStack {s : State} (h : MemoriesWf s) (k : StackId) (f : Stack → Stack)
    (hf : (s.stack[k]).dram.wf = true → (f s.stack[k]).dram.wf = true) : MemoriesWf (s.modStack k f) := by
  obtain ⟨hwelt, hstack, hcore⟩ := h
  refine ⟨hwelt, fun j => ?_, hcore⟩
  by_cases e : j = k
  · subst e
    rw [State.modStack_same]
    exact hf (hstack j)
  · rw [State.modStack_ne _ _ _ _ e]
    exact hstack j

theorem memoriesWf_modArch {s : State} (h : MemoriesWf s) (n : Core) (f : CoreArch → CoreArch)
    (hf : (s.core n).arch.scratch.wf = true → (f (s.core n).arch).scratch.wf = true)
    (hh : (f (s.core n).arch).heel = (s.core n).arch.heel) : MemoriesWf (s.modArch n f) := by
  obtain ⟨hwelt, hstack, hcore⟩ := h
  refine ⟨hwelt, hstack, fun m => ?_⟩
  change ((s.modArch n f).core m).arch.scratch.wf = true ∧ ((s.modArch n f).core m).arch.heel.wf = true
  by_cases e : m = n
  · subst e
    rw [State.modArch_same]
    exact ⟨hf (hcore m).1, by rw [hh]; exact (hcore m).2⟩
  · rw [State.modArch, State.modCore_ne _ _ _ _ e]
    exact hcore m

theorem memoriesWf_putByte {s : State} (h : MemoriesWf s) (l : Loc) (b : Byte) : MemoriesWf (s.putByte l b) := by
  cases l with
  | insole k off => exact memoriesWf_modStack h k _ (Memory.wf_write _ _ _)
  | welt off => exact ⟨Memory.wf_write _ _ _ h.1, h.2⟩
  | scratch n off => exact memoriesWf_modArch h n _ (Memory.wf_write _ _ _) rfl

theorem memoriesWf_setPoison {s : State} (h : MemoriesWf s) (l : Loc) (on : Bool) : MemoriesWf (s.setPoison l on) := by
  cases l with
  | insole k off => exact memoriesWf_modStack h k _ id
  | welt off => exact h
  | scratch n off => exact memoriesWf_modArch h n _ id rfl

theorem State.byteAt_setPoison (s : State) (w l : Loc) (on : Bool) : (s.setPoison w on).byteAt l = s.byteAt l := by
  cases w with
  | insole k i =>
    cases l with
    | insole j o =>
      by_cases e : j = k
      · subst e; simp only [State.setPoison, State.byteAt, State.modStack_same]
      · simp [State.setPoison, State.byteAt, State.modStack_ne _ _ _ _ e]
    | welt o => rfl
    | scratch n o => rfl
  | welt i => cases l <;> rfl
  | scratch n i =>
    cases l with
    | insole j o => rfl
    | welt o => rfl
    | scratch j o =>
      by_cases e : j = n
      · subst e; simp [State.setPoison, State.byteAt]
      · simp [State.setPoison, State.byteAt, State.modArch, State.modCore_ne _ _ _ _ e]

/-! ### Stores -/

/-- t is s after its memories stored the cells: the map and the Welt's area are those of s, and every memory is canonical. -/
structure Stored (s t : State) (cells : List (Nat × Byte)) : Prop where
  ins : t.ins = s.ins
  area : t.welt.areaOn = s.welt.areaOn
  wf : MemoriesWf t
  stores : StoresOnly s t cells

/-- Nothing outside cores, Welt and stacks differs between s and t. -/
def MemoryOnly (s t : State) : Prop := t = { s with cores := t.cores, welt := t.welt, stack := t.stack }

theorem MemoryOnly.trans {s t u : State} (h : MemoryOnly s t) (g : MemoryOnly t u) : MemoryOnly s u := by
  unfold MemoryOnly at *
  rw [g, h]

theorem MemoryOnly.putByte (s : State) (l : Loc) (b : Byte) : MemoryOnly s (s.putByte l b) := by cases l <;> rfl

theorem MemoryOnly.setPoison (s : State) (l : Loc) (on : Bool) : MemoryOnly s (s.setPoison l on) := by cases l <;> rfl

theorem Stored.refl {s : State} (hw : MemoriesWf s) : Stored s s [] := ⟨rfl, rfl, hw, fun _ => rfl⟩

theorem Stored.trans {s t u : State} {xs ys : List (Nat × Byte)} (he : ∀ a, s.ins.isEpoch a = false) (h : Stored s t xs)
    (g : Stored t u ys) : Stored s u (xs ++ ys) where
  ins := g.ins.trans h.ins
  area := g.area.trans h.area
  wf := g.wf
  stores l := by
    rw [g.stores l, h.stores l, cellFor_congr he h.ins h.area, cellFor_append]
    cases cellFor s ys l <;> rfl

/-- A change that leaves every byte as it is adds no cell. -/
theorem Stored.of_byteAt {s t u : State} {cells : List (Nat × Byte)} (h : Stored s t cells) (hi : u.ins = t.ins)
    (ha : u.welt.areaOn = t.welt.areaOn) (hw : MemoriesWf u) (hb : ∀ l, u.byteAt l = t.byteAt l) : Stored s u cells :=
  ⟨hi.trans h.ins, ha.trans h.area, hw, fun l => (hb l).trans (h.stores l)⟩

/-- A change outside cores and stacks that leaves the Welt's bytes and area as they are adds no cell. -/
theorem Stored.of_units {s t u : State} {cells : List (Nat × Byte)} (h : Stored s t cells) (hi : u.ins = t.ins)
    (hc : u.cores = t.cores) (hs : u.stack = t.stack) (hm : u.welt.mem = t.welt.mem) (ha : u.welt.areaOn = t.welt.areaOn) :
    Stored s u cells := by
  refine h.of_byteAt hi ha ?_ fun l => ?_
  · unfold MemoriesWf
    rw [hc, hs, hm]
    exact h.wf
  · cases l <;> simp only [State.byteAt, State.core, hc, hs, hm]

/-- Writing one byte stores its cell. -/
theorem Stored.writeByte {s : State} (he : ∀ a, s.ins.isEpoch a = false) (hw : MemoriesWf s) (a : Nat) (b : Byte) :
    Stored s (s.writeByte a b) [(a, b)] ∧ MemoryOnly s (s.writeByte a b) := by
  rw [State.writeByte_eq s he]
  cases hl : s.locate false a with
  | none => exact ⟨⟨rfl, rfl, hw, fun l => by simp [cellFor, hl]⟩, rfl⟩
  | some m =>
    refine ⟨⟨?_, ?_, memoriesWf_putByte hw m b, fun l => ?_⟩, MemoryOnly.putByte s m b⟩
    · cases m <;> rfl
    · cases m <;> rfl
    · rw [Option.elim_some, State.byteAt_putByte s hw]
      by_cases e : l = m
      · subst e; simp [cellFor, hl]
      · have : m ≠ l := fun q => e q.symm
        simp [cellFor, hl, e, this]

/-- Writing bytes in order stores their cells in order. -/
theorem Stored.writeBytes {s : State} (he : ∀ a, s.ins.isEpoch a = false) (hw : MemoriesWf s) (cells : List (Nat × Byte)) :
    Stored s (cells.foldl (fun s c => s.writeByte c.1 c.2) s) cells ∧
      MemoryOnly s (cells.foldl (fun s c => s.writeByte c.1 c.2) s) := by
  induction cells generalizing s with
  | nil => exact ⟨Stored.refl hw, rfl⟩
  | cons c r ih =>
    obtain ⟨h, f⟩ := Stored.writeByte he hw c.1 c.2
    obtain ⟨h', f'⟩ := ih (s := s.writeByte c.1 c.2) (by rw [h.ins]; exact he) h.wf
    exact ⟨h.trans he h', f.trans f'⟩

/-- A write at once stores its cells, whatever becomes of the words' poison. -/
theorem Stored.writeNow {s : State} (he : ∀ a, s.ins.isEpoch a = false) (hw : MemoriesWf s) (cells : List (Nat × Byte)) :
    Stored s (s.writeNow cells).1 cells ∧ MemoryOnly s (s.writeNow cells).1 := by
  unfold State.writeNow
  refine foldl_keeps (fun r : State × Bool => Stored s r.1 cells ∧ MemoryOnly s r.1) _ (fun r w hr => ?_) _ _
    (Stored.writeBytes he hw cells)
  obtain ⟨h, f⟩ := hr
  dsimp only
  split
  · exact ⟨h, f⟩
  · split
    · refine ⟨h.of_byteAt ?_ ?_ (memoriesWf_setPoison h.wf _ _) fun l => State.byteAt_setPoison _ _ _ _,
        f.trans (MemoryOnly.setPoison _ _ _)⟩
      · cases w.1 <;> rfl
      · cases w.1 <;> rfl
    · exact ⟨h, f⟩

theorem State.writeMem_eq_writeNow (s : State) (he : ∀ a, s.ins.isEpoch a = false) (a : Nat) (bs : List Byte) :
    s.writeMem a bs = s.writeNow (cellsAt a bs) := by
  unfold State.writeMem cellsAt
  refine State.writeCells_now s _ fun c _ => ?_
  rw [State.waitsAt, he, Bool.and_false, Bool.false_and]

/-- A write of memory stores its bytes. -/
theorem Stored.writeMem {s : State} (he : ∀ a, s.ins.isEpoch a = false) (hw : MemoriesWf s) (a : Nat) (bs : List Byte) :
    Stored s (s.writeMem a bs).1 (cellsAt a bs) := by
  rw [State.writeMem_eq_writeNow s he]
  exact (Stored.writeNow he hw _).1

/-- A write of memory changes nothing outside the memories' units. -/
theorem MemoryOnly.writeMem {s : State} (he : ∀ a, s.ins.isEpoch a = false) (hw : MemoriesWf s) (a : Nat) (bs : List Byte) :
    MemoryOnly s (s.writeMem a bs).1 := by
  rw [State.writeMem_eq_writeNow s he]
  exact (Stored.writeNow he hw _).2

theorem MemoryOnly.ctx {s t : State} (h : MemoryOnly s t) : t.ctx = s.ctx := by rw [h]

theorem MemoryOnly.ing {s t : State} (h : MemoryOnly s t) : t.ing = s.ing := by rw [h]

/-- A read that finds no new error changes nothing: it delivers the bytes, or fails where a word is poisoned (R76). -/
theorem State.readMem_clean (s : State) (b : Bool) (a n : Nat) :
    s.readMem b a n .clean = (s, if s.anyPoison b a n then (.eccUncorrectable, []) else (.ok, s.bytes b a n)) := by
  change (if s.anyPoison b a n then (s, Status.eccUncorrectable, []) else (s, Status.ok, s.bytes b a n)) = _
  split <;> rfl

/-! ### Interrupts -/

/-- A source that is raised is pending. -/
theorem State.irq_pend (s : State) (k : Nat) (hk : k < 32) : (s.irq k).ctx.pend.getLsbD k = true := by
  unfold State.irq
  rw [BitVec.getLsbD_or, BitVec.getLsbD_ofNat, Nat.testBit_two_pow_self, decide_eq_true hk]
  exact Bool.or_true _

end Sys2Proof.Machine
end

section
/-! What a transfer through the Welt leaves: taking and returning staging blocks changes the books of the classes and nothing
else, so around what a transfer does there are only entries in those books (R15, R227, R229, R230). -/

namespace Sys2Proof.Machine

/-- Only the books of the classes' blocks differ between w and v: what is in use, waits and is granted. -/
def Books (w v : Welt) : Prop := v = { w with use := v.use, wait := v.wait, granted := v.granted, lastPort := v.lastPort }

theorem Books.refl (w : Welt) : Books w w := rfl

theorem Books.trans {u v w : Welt} (h : Books u v) (g : Books v w) : Books u w := by
  unfold Books at *
  rw [g, h]

theorem Books.mem {w v : Welt} (h : Books w v) : v.mem = w.mem := by rw [h]

theorem Books.area {w v : Welt} (h : Books w v) : v.areaOn = w.areaOn := by rw [h]

theorem Books.claim (w : Welt) (c : WeltClass) (q : BlockWait) : Books w (w.claim c q).1 := by
  unfold Welt.claim
  dsimp only
  split
  · rfl
  · split
    · rfl
    · split <;> rfl

theorem Books.claimAll (w : Welt) (c : WeltClass) (q : BlockWait) (k : Nat) : Books w (w.claimAll c q k).1 := by
  unfold Welt.claimAll
  dsimp only
  split
  · refine forN_keeps (fun a : Welt × Option (List Bool) => Books w a.1) _ _ (fun i a ha => ?_) _ (Books.refl w)
    split
    · exact ha
    · exact ha.trans (Books.claim _ c q)
  · rfl

theorem Books.give (w : Welt) (c : WeltClass) (x : Nat) (pool : Bool) : Books w (w.give c x pool) := rfl

/-- Blocks that go back change the Welt's books alone. -/
theorem State.giveBlocks_books (c : WeltClass) (x : Nat) (bs : List Bool) (s : State) :
    ∃ v, Books s.welt v ∧ bs.foldl (fun s b => s.giveBlock c x b) s = { s with welt := v } := by
  induction bs generalizing s with
  | nil => exact ⟨s.welt, rfl, rfl⟩
  | cons b r ih =>
    obtain ⟨v, hv, e⟩ := ih (s.giveBlock c x b)
    exact ⟨v, (Books.give s.welt c x b).trans hv, e⟩

section
variable (s : State) (c : WeltClass) (q : BlockWait) (k : Nat) (f : State → State)

/-- A transfer that has its blocks does what it does between two changes of the Welt's books. -/
theorem State.throughWelt_granted (h : (s.welt.claimAll c q k).2.isSome = true) :
    ∃ v w, Books s.welt v ∧ Books (f { s with welt := v }).welt w ∧
      s.throughWelt c q k f = { f { s with welt := v } with welt := w } := by
  have hv := Books.claimAll s.welt c q k
  unfold State.throughWelt
  generalize s.welt.claimAll c q k = r at h hv
  obtain ⟨v, _ | bs⟩ := r
  · exact absurd h Bool.false_ne_true
  · obtain ⟨w, hw, e⟩ := State.giveBlocks_books c q.owner bs (f { s with welt := v })
    exact ⟨v, w, hv, hw, e⟩

/-- A transfer without its blocks waits. -/
theorem State.throughWelt_waits (h : ¬ (s.welt.claimAll c q k).2.isSome = true) :
    s.throughWelt c q k f = { s with welt := (s.welt.claimAll c q k).1 } := by
  unfold State.throughWelt
  generalize s.welt.claimAll c q k = r at h
  obtain ⟨v, _ | bs⟩ := r
  · rfl
  · exact absurd rfl h

end

/-- A change of the Welt's books stores nothing. -/
theorem Stored.books {s t : State} {cells : List (Nat × Byte)} {v : Welt} (h : Stored s t cells) (hv : Books t.welt v) :
    Stored s { t with welt := v } cells :=
  h.of_units rfl rfl rfl hv.mem hv.area

end Sys2Proof.Machine
end

section
/-! Cobbler's log, sessions and mailbox (R21, R449, R451, R453, R457 to R460): the records that reach the ring, in order and
numbered, and the settlement of LogAndMailbox. -/

namespace Sys2Proof.Machine

/-! ### Records into the ring -/

/-- Records go into Cobbler's ring one after another. -/
def State.putRecs (s : State) (rs : List EvRec) : State := rs.foldl State.putRec s

/-- Records with the numbers from k on. -/
def numbered (k : Nat) : List EvRec → List EvRec
  | [] => []
  | r :: rs => { r with seq := k } :: numbered (k + 1) rs

theorem numbered_map {α : Type} (f : EvRec → α) (hf : ∀ r k, f { r with seq := k } = f r) (k : Nat) (rs : List EvRec) :
    (numbered k rs).map f = rs.map f := by
  induction rs generalizing k with
  | nil => rfl
  | cons r rs ih => simp only [numbered, List.map_cons, hf, ih]

theorem numbered_length (k : Nat) (rs : List EvRec) : (numbered k rs).length = rs.length := by
  induction rs generalizing k with
  | nil => rfl
  | cons r rs ih => simp only [numbered, List.length_cons, ih]

theorem numbered_seq (k : Nat) (rs : List EvRec) : (numbered k rs).map EvRec.seq = List.range' k rs.length := by
  induction rs generalizing k with
  | nil => rfl
  | cons r rs ih => simp only [numbered, List.map_cons, ih, List.length_cons, List.range'_succ]

@[simp] theorem State.putRec_awl (s : State) (r : EvRec) : (s.putRec r).awl = s.awl := rfl

@[simp] theorem State.putRec_unmirrored (s : State) (r : EvRec) :
    (s.putRec r).cbl.unmirrored = s.cbl.unmirrored ++ [{ r with seq := s.cbl.nextSeq }] := rfl

theorem State.putRec_ringTakes (s : State) (r : EvRec) :
    (s.putRec r).ringTakes = (s.cblUp && decide (s.cbl.unmirrored.length + 1 < 1024)) := by
  unfold State.ringTakes
  rw [State.putRec_unmirrored, List.length_append, List.length_singleton]
  rfl

@[simp] theorem State.putRecs_awl (s : State) (rs : List EvRec) : (s.putRecs rs).awl = s.awl :=
  foldl_same State.awl State.putRec State.putRec_awl rs s

@[simp] theorem State.putRecs_cblUp (s : State) (rs : List EvRec) : (s.putRecs rs).cblUp = s.cblUp :=
  foldl_same State.cblUp State.putRec (fun _ _ => rfl) rs s

@[simp] theorem State.putRecs_clk (s : State) (rs : List EvRec) : (s.putRecs rs).clk = s.clk :=
  foldl_same State.clk State.putRec (fun _ _ => rfl) rs s

theorem State.putRecs_append (s : State) (xs ys : List EvRec) : s.putRecs (xs ++ ys) = (s.putRecs xs).putRecs ys :=
  List.foldl_append

/-- Records go into the ring whatever the Awl holds. -/
theorem State.putRecs_setAwl (s : State) (a : Awl) (rs : List EvRec) :
    ({ s with awl := a }).putRecs rs = { s.putRecs rs with awl := a } := by
  induction rs generalizing s with
  | nil => rfl
  | cons r rs ih => exact ih (s.putRec r)

/-- What the ring has not mirrored after records went in: they stand at the end, numbered. -/
theorem State.putRecs_unmirrored (s : State) (rs : List EvRec) :
    (s.putRecs rs).cbl.unmirrored = s.cbl.unmirrored ++ numbered s.cbl.nextSeq rs := by
  induction rs generalizing s with
  | nil => exact (List.append_nil _).symm
  | cons r rs ih =>
    have h := ih (s.putRec r)
    rw [State.putRec_unmirrored, List.append_assoc] at h
    exact h

theorem State.ringTakes_of_lt (s : State) (hup : s.cblUp = true) (hl : s.cbl.unmirrored.length < 1024) : s.ringTakes = true := by
  simp [State.ringTakes, hup, hl]

/-! ### Health counts (R451) -/

/-- The record of a changed health count. -/
def State.healthRec (s : State) (x : Nat × Nat) : EvRec :=
  { seq := 0, time := s.now, code := BitVec.ofNat 16 (x.1 / 2 ^ 24 * 256), severity := 1, status := .ok
    cls := BitVec.ofNat 8 (x.1 / 2 ^ 16 % 256), dev := BitVec.ofNat 16 (x.1 % 2 ^ 16), data := 0, count := BitVec.ofNat 32 x.2 }

/-- With nothing held in the Awl and room in the ring, the counts' records go into the ring. -/
theorem State.pushHealth_eq (xs : List (Nat × Nat)) (s : State) (hup : s.cblUp = true) (hh : s.awl.held = []) (hl : s.awl.lost = 0)
    (hroom : s.cbl.unmirrored.length + xs.length ≤ 1024) :
    xs.foldl (fun (s : State) x => s.pushRec (s.healthRec x)) s = s.putRecs (xs.map s.healthRec) := by
  induction xs generalizing s with
  | nil => rfl
  | cons x xs ih =>
    rw [List.length_cons] at hroom
    have htakes : s.ringTakes = true := s.ringTakes_of_lt hup (by omega)
    have hput : s.pushRec (s.healthRec x) = s.putRec (s.healthRec x) := by simp [State.pushRec, htakes, hh, hl]
    rw [List.foldl_cons, hput]
    exact ih _ hup hh hl (by rw [State.putRec_unmirrored, List.length_append, List.length_singleton]; omega)

theorem State.flushHealth_eq (s : State) (hup : s.cblUp = true) (hh : s.awl.held = []) (hl : s.awl.lost = 0)
    (hroom : s.cbl.unmirrored.length + s.awl.healthNew.length ≤ 1024) :
    s.flushHealth = { s.putRecs (s.awl.healthNew.map s.healthRec) with awl := { s.awl with healthNew := [] } } := by
  have h := State.pushHealth_eq s.awl.healthNew s hup hh hl hroom
  unfold State.flushHealth
  change { s.awl.healthNew.foldl (fun (s : State) x => s.pushRec (s.healthRec x)) s with
    awl := { (s.awl.healthNew.foldl (fun (s : State) x => s.pushRec (s.healthRec x)) s).awl with healthNew := [] } } = _
  rw [h, State.putRecs_awl]

/-- The changed health counts become one record each. -/
theorem exec_healthRecordFlush_records (s : State) (hfw : s.firmwareUp = true) (hh : s.awl.held = []) (hl : s.awl.lost = 0)
    (hroom : s.cbl.unmirrored.length + s.awl.healthNew.length ≤ 1024) :
    ∃ v, exec .healthRecordFlush s = Host.Outcome.next v ∧ v.awl = { s.awl with healthNew := [] } ∧
      v.cbl.unmirrored = s.cbl.unmirrored ++ numbered s.cbl.nextSeq (s.awl.healthNew.map s.healthRec) := by
  have hup : s.cblUp = true := (Bool.and_eq_true_iff.mp hfw).1
  refine ⟨s.flushHealth, ?_, ?_⟩
  · change Host.Outcome.next (if s.firmwareUp then s.flushHealth else s) = _
    rw [if_pos hfw]
  · rw [State.flushHealth_eq s hup hh hl hroom]
    exact ⟨rfl, State.putRecs_unmirrored s _⟩

/-! ### The mirror (R451) -/

/-- While the mirror has room, records are added at its end. -/
theorem mirrored_append (old new : List EvRec) (h : old.length + new.length ≤ 65536) : mirrored old new = old ++ new := by
  induction new generalizing old with
  | nil => exact (List.append_nil old).symm
  | cons r new ih =>
    rw [List.length_cons] at h
    have hroom : ¬ old.length ≥ 65536 := by omega
    have hr := ih (old ++ [r]) (by rw [List.length_append, List.length_singleton]; omega)
    rw [List.append_assoc] at hr
    unfold mirrored at hr ⊢
    rw [List.foldl_cons, if_neg hroom]
    exact hr

theorem exec_eventMirrorWrite_room (s : State) (hup : s.cblUp = true)
    (hroom : s.cbl.mirror.length + s.cbl.unmirrored.length ≤ 65536) :
    exec .eventMirrorWrite s =
      .next { s with cbl := { s.cbl with mirror := s.cbl.mirror ++ s.cbl.unmirrored, unmirrored := [] } } := by
  rw [← mirrored_append _ _ hroom]
  exact congrArg Host.Outcome.next (if_pos hup)

/-! ### The Awl's held records (R21) -/

theorem State.deliverOne_full (s : State) (ht : s.ringTakes = false) : s.deliverOne = s := by
  unfold State.deliverOne
  rw [ht]
  rfl

theorem State.deliverOne_held (s : State) (r : EvRec) (rest : List EvRec) (ht : s.ringTakes = true) (hh : s.awl.held = r :: rest) :
    s.deliverOne = ({ s with awl := { s.awl with held := rest } }).putRec r := by
  unfold State.deliverOne
  rw [ht, hh]
  rfl

/-- The record of what the Awl lost, where it lost any. -/
def State.lostRecs (s : State) : List EvRec := if s.awl.lost = 0 then [] else [s.lostRec]

theorem State.deliverOne_lost (s : State) (ht : s.ringTakes = true) (hh : s.awl.held = []) :
    s.deliverOne = ({ s with awl := { s.awl with lost := 0 } }).putRecs s.lostRecs := by
  unfold State.deliverOne State.lostRecs
  rw [ht, hh]
  by_cases h : s.awl.lost = 0
  · have hsame : { s.awl with lost := 0 } = s.awl := by rw [← h]
    rw [hsame, if_pos h]
    simp [h, State.putRecs]
  · rw [if_neg h]
    simp [h, State.putRecs]

/-- k deliveries, one after another. -/
def State.deliver (k : Nat) (s : State) : State := forN k (fun _ s => s.deliverOne) s

theorem State.deliver_first (k : Nat) (s : State) : s.deliver (k + 1) = s.deliverOne.deliver k := by
  unfold State.deliver forN
  rw [List.range_succ_eq_map, List.foldl_cons, List.foldl_map]

theorem State.deliver_last (k : Nat) (s : State) : s.deliver (k + 1) = (s.deliver k).deliverOne := by
  unfold State.deliver forN
  rw [List.range_succ, List.foldl_append, List.foldl_cons, List.foldl_nil]

/-- While the ring has room, as many deliveries as records are held put them into the ring in order. -/
theorem State.deliver_held (held : List EvRec) (s : State) (hup : s.cblUp = true) (hh : s.awl.held = held)
    (hroom : s.cbl.unmirrored.length + held.length ≤ 1024) :
    s.deliver held.length = ({ s with awl := { s.awl with held := [] } }).putRecs held := by
  induction held generalizing s with
  | nil =>
    have hsame : { s.awl with held := [] } = s.awl := by rw [← hh]
    rw [hsame]
    rfl
  | cons r rest ih =>
    rw [List.length_cons] at hroom ⊢
    rw [State.deliver_first, s.deliverOne_held r rest (s.ringTakes_of_lt hup (by omega)) hh]
    exact ih _ hup rfl (by rw [State.putRec_unmirrored, List.length_append, List.length_singleton]; dsimp only; omega)

theorem exec_awlHeldRecordDelivery (s : State) :
    exec .awlHeldRecordDelivery s = .next (s.deliver (s.awl.held.length + 1)) := rfl

/-- With room for them all, the held records and the count of the lost ones go into the ring. -/
theorem exec_awlHeldRecordDelivery_room (s : State) (hup : s.cblUp = true)
    (hroom : s.cbl.unmirrored.length + s.awl.held.length < 1024) :
    exec .awlHeldRecordDelivery s =
      .next (({ s with awl := { s.awl with held := [], lost := 0 } }).putRecs (s.awl.held ++ s.lostRecs)) := by
  have hheld := State.deliver_held _ s hup rfl (by omega)
  rw [State.putRecs_setAwl] at hheld
  generalize ht : { s.putRecs s.awl.held with awl := { s.awl with held := [] } } = t at hheld
  have hlost : t.lostRecs = s.lostRecs := by
    rw [← ht]
    simp [State.lostRecs, State.lostRec, State.now]
  have htakes : t.ringTakes = true := by
    refine t.ringTakes_of_lt ?_ ?_
    · rw [← ht]; exact (s.putRecs_cblUp _).trans hup
    · rw [← ht]; simp only [State.putRecs_unmirrored, List.length_append, numbered_length]; exact hroom
  rw [exec_awlHeldRecordDelivery, State.deliver_last, hheld, t.deliverOne_lost htakes (by rw [← ht]), hlost,
    State.putRecs_append, State.putRecs_setAwl s, ← ht]

theorem exec_awlHeldRecordDelivery_full (s : State) (hfull : 1024 ≤ s.cbl.unmirrored.length) :
    exec .awlHeldRecordDelivery s = .next s := by
  have ht : s.ringTakes = false := by simp [State.ringTakes, hfull]
  have hsame : s.deliver (s.awl.held.length + 1) = s :=
    forN_keeps (fun t => t = s) _ _ (fun _ t h => by rw [h]; exact s.deliverOne_full ht) s rfl
  rw [exec_awlHeldRecordDelivery, hsame]

/-! ### Sessions (R453) -/

/-- The class of a client's certificate under the fused anchor; none where the handshake refuses it. -/
def State.clientClass (s : State) (cert : List Byte) : Option Bool := Config.certClass (s.cbl.anchor.getD [] ++ cert)

/-- The lowest session that is not open. -/
def State.freeSession (s : State) : Option (Fin 4) := (List.finRange 4).find? fun i => !(s.cbl.sessions[i]).isOpen

theorem State.freeSession_none (s : State) (h : ∀ i : Fin 4, (s.cbl.sessions[i]).isOpen = true) : s.freeSession = none := by
  rw [State.freeSession, List.find?_eq_none]
  intro i _
  rw [h i]
  exact Bool.false_ne_true

theorem State.freeSession_some (s : State) (i : Fin 4) (hi : (s.cbl.sessions[i]).isOpen = false)
    (hlt : ∀ j : Fin 4, j < i → (s.cbl.sessions[j]).isOpen = true) : s.freeSession = some i := by
  rw [State.freeSession, List.find?_eq_some_iff_getElem]
  refine ⟨by rw [hi, Bool.not_false], i.val, by rw [List.length_finRange]; exact i.isLt, List.getElem_finRange _, fun j hj => ?_⟩
  rw [List.getElem_finRange, Bool.not_not]
  exact hlt ⟨j, Nat.lt_trans hj i.isLt⟩ hj

theorem exec_mgmtSessionConnect_none (s : State) (cert : List Byte)
    (h : s.clientClass cert = none ∨ s.freeSession = none) : exec (.mgmtSessionConnect cert) s = .next s := by
  change execMgmtSessionConnect cert s = _
  unfold execMgmtSessionConnect
  unfold State.clientClass State.freeSession at h
  split
  · rfl
  · split
    · next ho hi =>
      rw [ho, hi] at h
      exact (h.elim (Option.some_ne_none _) (Option.some_ne_none _)).elim
    · rfl

theorem exec_mgmtSessionConnect_some (s : State) (cert : List Byte) (o : Bool) (i : Fin 4) (hup : s.cblUp = true)
    (ho : s.clientClass cert = some o) (hi : s.freeSession = some i) :
    exec (.mgmtSessionConnect cert) s = .next { s with cbl := { s.cbl with
      sessions := vput s.cbl.sessions i { isOpen := true, operator := o && s.cbl.anchor.isSome } } } := by
  unfold State.clientClass at ho
  unfold State.freeSession at hi
  change execMgmtSessionConnect cert s = _
  unfold execMgmtSessionConnect
  rw [hup, ho, hi]
  rfl

/-! ### The mailbox (R457 to R460) -/

theorem exec_cblDoorbell (s : State) :
    exec .cblDoorbell s = .next { s with cbl :=
      if s.cblUp = false then { s.cbl with lastStatus := .refusedReset }
      else if s.cbl.mbState = .idle then { s.cbl with lastStatus := .ok, mbState := .busy }
      else { s.cbl with lastStatus := .busy } } := by
  change execCblDoorbell s = _
  unfold execCblDoorbell
  cases hup : s.cblUp with
  | false => rfl
  | true => cases hm : s.cbl.mbState <;> simp [hm]

theorem exec_cblAck_noReply (s : State) (h : s.cbl.mbState ≠ .reply) : exec .cblAck s = .next s := by
  change execCblAck s = _
  unfold execCblAck
  rw [if_pos (bne_iff_ne.mpr h)]

theorem exec_cblAck_last (s : State) (h : s.cbl.mbState = .reply) (hp : s.cbl.pieces = none) (hn : s.cbl.notices = []) :
    exec .cblAck s = .next { s with cbl := { s.cbl with mbState := .idle } } := by
  change execCblAck s = _
  unfold execCblAck
  rw [h, hp]
  simp [State.placeNotice, hn]

theorem exec_cblAck_piece (s : State) (p : Reply) (n : Nat) (h : s.cbl.mbState = .reply) (hp : s.cbl.pieces = some (p, n)) :
    exec .cblAck s = .next (s.placePiece p n) := by
  change execCblAck s = _
  unfold execCblAck
  rw [h, hp]
  rfl

/-- The tag of a message stands in bits 31 to 16 of the reply buffer's first register (R454, R461). -/
theorem mailWords_tag (code tag : BitVec 16) (rest : List Byte) :
    bitsOf (mailWords (leBytes 2 code.toNat ++ leBytes 2 tag.toNat ++ rest))[0] 31 16 = tag.toNat := by
  have hcode := code.isLt
  have htag := tag.isLt
  simp [mailWords, natAt, leBytes, leNat, bitsOf]
  omega

theorem State.placeMail_tag (s : State) (code tag : BitVec 16) (len : Nat) (st : Status) (detail : Byte) (body : List Byte) :
    bitsOf (s.placeMail code tag len st detail body).cbl.mbRsp[0] 31 16 = tag.toNat := by
  have h := mailWords_tag code tag (leBytes 4 len ++ leBytes 1 st.code ++ [detail] ++ List.replicate 6 0 ++ body)
  simp only [← List.append_assoc] at h
  exact h

theorem State.placeMail_pend (s : State) (code tag : BitVec 16) (len : Nat) (st : Status) (detail : Byte) (body : List Byte) :
    (s.placeMail code tag len st detail body).ctx.pend.getLsbD 21 = true :=
  State.irq_pend _ 21 (by decide)

/-- A piece that is placed stands in the reply buffer under its reply's tag, source 21 is raised, and further pieces wait
where the reply has more (R458). -/
theorem State.placePiece_spec (s : State) (p : Reply) (n : Nat) :
    (s.placePiece p n).cbl.mbState = .reply ∧ bitsOf (s.placePiece p n).cbl.mbRsp[0] 31 16 = p.tag.toNat ∧
      (s.placePiece p n).ctx.pend.getLsbD 21 = true ∧
      (p.payload.length ≤ 240 * (n + 1) ↔ (s.placePiece p n).cbl.pieces = none) := by
  refine ⟨rfl, s.placeMail_tag p.code p.tag _ .ok _ _, s.placeMail_pend p.code p.tag _ .ok _ _, ?_⟩
  change p.payload.length ≤ 240 * (n + 1) ↔
    (if p.payload.length ≤ pieceBytes * (n + 1) then none else some (p, n + 1)) = none
  unfold pieceBytes
  split <;> simp [*]

/-- Settles O56: each clause by the equation of its command, the records by what goes into the ring. -/
theorem logAndMailbox : Obligations.LogAndMailbox := by
  intro cert s
  refine ⟨fun hfw hh hl hroom => ?_, exec_eventMirrorWrite_room s, fun hup hroom => ?_,
    fun _ hfull => exec_awlHeldRecordDelivery_full s hfull, fun _ h => ?_, fun o i hup ho hi hlt => ?_, exec_cblDoorbell s,
    exec_cblAck_noReply s, exec_cblAck_last s, fun p n h hp => ?_⟩
  · obtain ⟨v, hv, hawl, hring⟩ := exec_healthRecordFlush_records s hfw hh hl hroom
    refine ⟨v, hv, hawl, ?_⟩
    dsimp only
    rw [hring, List.take_left, List.drop_left, numbered_map _ (fun _ _ => rfl), numbered_seq, List.map_map, List.length_map,
      List.range'_eq_map_range]
    exact ⟨rfl, rfl, rfl⟩
  · refine ⟨_, exec_awlHeldRecordDelivery_room s hup hroom, State.putRecs_awl _ _, ?_⟩
    dsimp only
    rw [State.putRecs_unmirrored, List.take_left, List.drop_left, numbered_map _ (fun _ _ => rfl),
      numbered_map _ (fun _ _ => rfl), List.map_append, List.map_append, State.lostRecs]
    by_cases hl : s.awl.lost = 0
    · simp only [if_pos hl, true_and]
      exact ⟨rfl, rfl⟩
    · simp only [if_neg hl, true_and]
      exact ⟨rfl, rfl⟩
  · exact exec_mgmtSessionConnect_none s cert (h.imp id s.freeSession_none)
  · exact exec_mgmtSessionConnect_some s cert o i hup ho (s.freeSession_some i hi hlt)
  · exact ⟨_, exec_cblAck_piece s p n h hp, s.placePiece_spec p n⟩

end Sys2Proof.Machine
end

section
/-! The frame rings of the control complex (R384, R389, R425, R426, R429, R430): what a frame received and a frame sent leave,
and the settlement of FrameRings. -/

namespace Sys2Proof.Machine

/-! ### Timestamps (R389) -/

/-- A timestamp within 4 ns of the time counter. -/
def State.Near (s : State) (ts : Word) : Prop := ∃ k ≤ 8, ts = s.now - 4 + BitVec.ofNat 64 k

theorem State.stamp_near (s : State) : s.Near s.stamp.1 :=
  ⟨(Config.free s.freeCtr).toNat % 9, Nat.le_of_lt_succ (Nat.mod_lt _ (by decide)), rfl⟩

/-- The timestamp of a frame that arrives: drawn for an event message, else 0. -/
def State.frameStamp (s : State) (ptp : Bool) : Word × State := if ptp then s.stamp else (0, s)

theorem State.frameStamp_ts (s : State) (ptp : Bool) :
    if ptp = true then s.Near (s.frameStamp ptp).1 else (s.frameStamp ptp).1 = 0 := by
  cases ptp with
  | false => rfl
  | true => exact s.stamp_near

theorem State.frameStamp_state (s : State) (ptp : Bool) : ∃ c, (s.frameStamp ptp).2 = { s with freeCtr := c } := by
  cases ptp with
  | false => exact ⟨s.freeCtr, rfl⟩
  | true => exact ⟨s.freeCtr + 1, rfl⟩

/-! ### Receiving (R385, R389, R425) -/

/-- A frame at a port is one that the ports pass on to the control complex. -/
def State.TakesFrame (s : State) (p : Port) (frame : List Byte) : Prop :=
  s.ethUp p = true ∧ frameSize frame = true ∧ (p.val < 4 → frameKind frame = .complex) ∧
    natBE frame (typeOff frame) 2 ≠ 0x8808

/-- The test by which the model turns a frame away. -/
theorem State.takesFrame_iff (s : State) (p : Port) (frame : List Byte) : s.TakesFrame p frame ↔
    ¬ (!s.ethUp p || !frameSize frame || (p.val < 4 && frameKind frame != .complex) ||
      natBE frame (typeOff frame) 2 == 0x8808) = true := by
  simp [State.TakesFrame, and_assoc]

/-- The header of a slot of the receive ring (R425). -/
def frameHeader (p : Port) (frame : List Byte) (ptp : Bool) (ts : Word) : List Byte :=
  leBytes 2 frame.length ++ leBytes 1 p.val ++ leBytes 1 (b2n ptp) ++ leBytes 4 0 ++ leBytes 8 ts.toNat ++ List.replicate 48 0

/-- Whether an arriving frame gets a timestamp: an IEEE 1588 event message on a control port (R389). -/
def isStamped (p : Port) (frame : List Byte) : Bool := decide (4 ≤ p.val) && isEventMessage frame

/-- A frame with its header is written at the head of the receive ring, which moves on. -/
def State.storeFrame (p : Port) (frame : List Byte) (r : FrameRing) (s : State) : State :=
  let x := s.frameStamp (isStamped p frame)
  let t := (x.2.writeMem (r.slotAt r.head) (frameHeader p frame (isStamped p frame) x.1 ++ frame)).1
  ({ t with ctx := { t.ctx with rx := { r with head := r.head + 1 } } }).irq 17

/-- A frame that has its blocks is stored, or counted where the ring is full. -/
def State.receiveFrame (p : Port) (frame : List Byte) (r : FrameRing) (s : State) : State :=
  if r.fill == r.slots then { s with ctx := { s.ctx with rx := { r with drops := satAdd r.drops 1 } } }
  else s.storeFrame p frame r

section
variable {s : State} {p : Port} {frame : List Byte}

theorem exec_ccFrameReceive_ignored (h : ¬ s.TakesFrame p frame) : exec (.ccFrameReceive p frame) s = .next s := by
  change execCcFrameReceive p frame s = _
  unfold execCcFrameReceive
  rw [if_pos (Classical.not_not.mp (mt (s.takesFrame_iff p frame).mpr h))]

theorem exec_ccFrameReceive_taken (h : s.TakesFrame p frame) : exec (.ccFrameReceive p frame) s =
    .next (s.throughWelt .ing clickerBlocks (blocksOf frame.length) (State.receiveFrame p frame s.ctx.rx)) := by
  change execCcFrameReceive p frame s = _
  unfold execCcFrameReceive
  rw [if_neg ((s.takesFrame_iff p frame).mp h)]
  refine congrArg Host.Outcome.next (congrArg (s.throughWelt .ing clickerBlocks (blocksOf frame.length)) (funext fun t => ?_))
  unfold State.receiveFrame State.storeFrame State.frameStamp frameHeader isStamped
  split
  · rfl
  · dsimp only

theorem State.storeFrame_spec (r : FrameRing) (hw : MemoriesWf s) (he : ∀ a, s.ins.isEpoch a = false) :
    ∃ ts, (if isStamped p frame = true then s.Near ts else ts = 0) ∧
      Stored s (s.storeFrame p frame r) (cellsAt (r.slotAt r.head) (frameHeader p frame (isStamped p frame) ts ++ frame)) ∧
      (s.storeFrame p frame r).ctx.rx = { r with head := r.head + 1 } ∧
      (s.storeFrame p frame r).ctx.pend.getLsbD 17 = true := by
  refine ⟨(s.frameStamp (isStamped p frame)).1, s.frameStamp_ts _, ?_, rfl, State.irq_pend _ 17 (by decide)⟩
  obtain ⟨c, hc⟩ := s.frameStamp_state (isStamped p frame)
  have h0 : Stored s { s with freeCtr := c } [] := (Stored.refl hw).of_units rfl rfl rfl rfl rfl
  have h1 := Stored.writeMem (s := { s with freeCtr := c }) he h0.wf (r.slotAt r.head)
    (frameHeader p frame (isStamped p frame) (s.frameStamp (isStamped p frame)).1 ++ frame)
  unfold State.storeFrame
  dsimp only
  rw [hc]
  generalize ({ s with freeCtr := c } : State).writeMem _ _ = w at h1
  exact (h0.trans he h1).of_units rfl rfl rfl rfl rfl

/-- A frame without its blocks waits. -/
theorem exec_ccFrameReceive_waits (h : s.TakesFrame p frame)
    (hb : ¬ (s.welt.claimAll .ing clickerBlocks (blocksOf frame.length)).2.isSome = true) :
    ∃ u, exec (.ccFrameReceive p frame) s = Host.Outcome.next u ∧ u = { s with welt := u.welt } :=
  ⟨_, exec_ccFrameReceive_taken h, by rw [State.throughWelt_waits _ _ _ _ _ hb]⟩

/-- A frame that finds the ring full is counted. -/
theorem exec_ccFrameReceive_full (h : s.TakesFrame p frame)
    (hb : (s.welt.claimAll .ing clickerBlocks (blocksOf frame.length)).2.isSome = true) (hf : s.ctx.rx.fill = s.ctx.rx.slots) :
    ∃ u, exec (.ccFrameReceive p frame) s = Host.Outcome.next u ∧
      u = { s with welt := u.welt, ctx := { s.ctx with rx := { s.ctx.rx with drops := satAdd s.ctx.rx.drops 1 } } } := by
  obtain ⟨v, w, -, -, hrun⟩ := s.throughWelt_granted .ing clickerBlocks _ (State.receiveFrame p frame s.ctx.rx) hb
  refine ⟨_, exec_ccFrameReceive_taken h, ?_⟩
  rw [hrun, State.receiveFrame, if_pos (beq_iff_eq.mpr hf)]

/-- A frame that finds room is stored with its header at the head of the ring. -/
theorem exec_ccFrameReceive_stored (hw : MemoriesWf s) (he : ∀ a, s.ins.isEpoch a = false) (h : s.TakesFrame p frame)
    (hb : (s.welt.claimAll .ing clickerBlocks (blocksOf frame.length)).2.isSome = true) (hf : s.ctx.rx.fill ≠ s.ctx.rx.slots) :
    ∃ u ts, exec (.ccFrameReceive p frame) s = Host.Outcome.next u ∧
      StoresOnly s u (cellsAt (s.ctx.rx.slotAt s.ctx.rx.head) (frameHeader p frame (isStamped p frame) ts ++ frame)) ∧
      u.ctx.rx = { s.ctx.rx with head := s.ctx.rx.head + 1 } ∧ u.ctx.pend.getLsbD 17 = true ∧
      (if isStamped p frame = true then s.Near ts else ts = 0) := by
  obtain ⟨v, w, hv, hw', hrun⟩ := s.throughWelt_granted .ing clickerBlocks _ (State.receiveFrame p frame s.ctx.rx) hb
  have hput : State.receiveFrame p frame s.ctx.rx { s with welt := v } = State.storeFrame p frame s.ctx.rx { s with welt := v } :=
    if_neg (mt beq_iff_eq.mp hf)
  rw [hput] at hw' hrun
  have h0 : Stored s { s with welt := v } [] := (Stored.refl hw).books hv
  obtain ⟨ts, hts, hst, hrx, hpend⟩ := State.storeFrame_spec (p := p) (frame := frame) s.ctx.rx h0.wf he
  rw [exec_ccFrameReceive_taken h, hrun]
  exact ⟨_, ts, rfl, ((h0.trans he hst).books hw').stores, hrx, hpend, hts⟩

end

/-! ### Sending (R384, R389, R425) -/

/-- The slot at the head of the transmit ring is passed. -/
def State.passSlot (r : FrameRing) (s : State) : State := { s with ctx := { s.ctx with tx := { r with head := r.head + 1 } } }

/-- The header of the transmit slot at an address. -/
def State.slotHead (s : State) (a : Nat) : List Byte := s.bytes false a 64

/-- The port that a slot's header names. -/
def headPort (head : List Byte) : Port := Fin.ofNat 8 (natAt head 2 1)

/-- A slot's header asks for a timestamp, and its port takes them. -/
def asksStamp (head : List Byte) : Bool := natAt head 3 1 / 2 % 2 == 1 && decide (4 ≤ (headPort head).val)

/-- The frame of the transmit slot at an address. -/
def State.slotFrame (s : State) (a : Nat) : List Byte := s.bytes false (a + 64) (natAt (s.slotHead a) 0 2)

/-- What a slot's header holds once its frame has left with a timestamp. -/
def stampCells (a : Nat) (head : List Byte) (ts : Word) : List (Nat × Byte) :=
  if asksStamp head = true then
    cellsAt (a + 8) (leBytes 8 ts.toNat) ++ cellsAt (a + 3) [BitVec.ofNat 8 (natAt head 3 1 ||| 1)]
  else []

/-- The timestamp is written into the header of the slot that asks for it. -/
def State.stampSlot (a : Nat) (head : List Byte) (ts : Word) (s : State) : State :=
  if asksStamp head then
    ((s.writeMem (a + 8) (leBytes 8 ts.toNat)).1.writeMem (a + 3) [BitVec.ofNat 8 (natAt head 3 1 ||| 1)]).1
  else s

theorem State.stampSlot_stored {s : State} (a : Nat) (head : List Byte) (ts : Word) (hw : MemoriesWf s)
    (he : ∀ a, s.ins.isEpoch a = false) :
    Stored s (s.stampSlot a head ts) (stampCells a head ts) ∧ MemoryOnly s (s.stampSlot a head ts) := by
  unfold State.stampSlot stampCells
  split
  · have h1 := Stored.writeMem he hw (a + 8) (leBytes 8 ts.toNat)
    have he1 : ∀ b, (s.writeMem (a + 8) (leBytes 8 ts.toNat)).1.ins.isEpoch b = false := by rw [h1.ins]; exact he
    exact ⟨h1.trans he (Stored.writeMem he1 h1.wf _ _),
      (MemoryOnly.writeMem he hw _ _).trans (MemoryOnly.writeMem he1 h1.wf _ _)⟩
  · exact ⟨Stored.refl hw, rfl⟩

/-- A frame goes out by the port that its slot names, a one-step message with its timestamp. -/
def State.putOut (s : State) (head frame : List Byte) : State :=
  s.stamp.2.modEth (headPort head) fun x => { x with tx := if 4 ≤ (headPort head).val then oneStep frame s.stamp.1 else frame }

theorem State.putOut_stored {s : State} (head frame : List Byte) (hw : MemoriesWf s) : Stored s (s.putOut head frame) [] :=
  (Stored.refl hw).of_units rfl rfl rfl rfl rfl

theorem State.putOut_port (s : State) (head frame : List Byte) : (s.putOut head frame).ing.port[headPort head] =
    { s.ing.port[headPort head] with tx := if 4 ≤ (headPort head).val then oneStep frame s.stamp.1 else frame } :=
  vmod_get_same _ _ _

/-- A frame that has its blocks leaves, and its slot is passed. -/
def State.sendFrame (a : Nat) (head frame : List Byte) (r : FrameRing) (s : State) : State :=
  (((s.putOut head frame).stampSlot a head s.stamp.1).passSlot r).irq 18

theorem State.sendFrame_spec {s : State} (a : Nat) (head frame : List Byte) (r : FrameRing) (hw : MemoriesWf s)
    (he : ∀ a, s.ins.isEpoch a = false) :
    ∃ ts, s.Near ts ∧ Stored s (s.sendFrame a head frame r) (stampCells a head ts) ∧
      (s.sendFrame a head frame r).ctx.tx = { r with head := r.head + 1 } ∧
      (s.sendFrame a head frame r).ing.port[headPort head] = { s.ing.port[headPort head] with
        tx := if 4 ≤ (headPort head).val then oneStep frame ts else frame } ∧
      (s.sendFrame a head frame r).ctx.pend.getLsbD 18 = true := by
  have h0 := s.putOut_stored head frame hw
  have hport := s.putOut_port head frame
  unfold State.sendFrame
  generalize s.putOut head frame = t at h0 hport
  obtain ⟨h1, hm⟩ := t.stampSlot_stored a head s.stamp.1 h0.wf (by rw [h0.ins]; exact he)
  generalize t.stampSlot a head s.stamp.1 = u at h1 hm
  refine ⟨s.stamp.1, s.stamp_near, (h0.trans he h1).of_units rfl rfl rfl rfl rfl, rfl, ?_, State.irq_pend _ 18 (by decide)⟩
  rw [← hport, ← hm.ing]
  rfl

section
variable {s : State}

theorem exec_ccFrameTransmit_empty (h : s.ctx.tx.head = s.ctx.tx.tail) : exec .ccFrameTransmit s = .next s := by
  change execCcFrameTransmit s = _
  unfold execCcFrameTransmit
  rw [if_pos (by simp [h])]

/-- A slot whose header fails its code, or that holds no frame, is passed unsent. -/
theorem exec_ccFrameTransmit_passed {a : Nat} (ha : s.ctx.tx.slotAt s.ctx.tx.head = a) (h : s.ctx.tx.head ≠ s.ctx.tx.tail)
    (hon : s.fastOn = true) (hbad : s.anyPoison false a 64 = true ∨ frameSize (s.slotFrame a) = false) :
    exec .ccFrameTransmit s = .next (s.passSlot s.ctx.tx) := by
  change execCcFrameTransmit s = _
  unfold execCcFrameTransmit
  rw [if_neg (by simp [h, hon]), ha]
  dsimp only
  rw [State.readMem_clean]
  dsimp only
  rw [State.readMem_clean]
  refine congrArg Host.Outcome.next (if_pos ?_)
  cases hhead : s.anyPoison false a 64 with
  | true => rfl
  | false =>
    have hsize : frameSize (s.slotFrame a) = false := hbad.resolve_left (by simp [hhead])
    unfold State.slotFrame State.slotHead at hsize
    cases hframe : s.anyPoison false (a + 64) (natAt (s.bytes false a 64) 0 2) with
    | true => simp [hframe]
    | false => simp [hframe, hsize]

/-- The slot at address a, at the head of a ring that is not empty, holds a frame that its port carries now. -/
structure State.Sends (s : State) (a : Nat) : Prop where
  slot : s.ctx.tx.slotAt s.ctx.tx.head = a
  waits : s.ctx.tx.head ≠ s.ctx.tx.tail
  head : s.anyPoison false a 64 = false
  body : s.anyPoison false (a + 64) (natAt (s.slotHead a) 0 2) = false
  size : frameSize (s.slotFrame a) = true
  up : s.ethUp (headPort (s.slotHead a)) = true
  clear : bitOf s.ing.port[headPort (s.slotHead a)].paused (framePrio (s.slotFrame a)) = false

theorem exec_ccFrameTransmit_sends {a : Nat} (h : s.Sends a) :
    exec .ccFrameTransmit s = .next (s.throughWelt .ing clickerBlocks (blocksOf (s.slotFrame a).length)
      (State.sendFrame a (s.slotHead a) (s.slotFrame a) s.ctx.tx)) := by
  obtain ⟨ha, h, hhead, hframe, hsize, hup, hclear⟩ := h
  have hon : s.fastOn = true := (Bool.and_eq_true_iff.mp (Bool.and_eq_true_iff.mp hup).1).1
  change execCcFrameTransmit s = _
  unfold execCcFrameTransmit
  rw [if_neg (by simp [h, hon]), ha]
  dsimp only
  rw [State.readMem_clean, hhead, if_neg Bool.false_ne_true]
  dsimp only
  rw [State.readMem_clean, ← State.slotHead, hframe, if_neg Bool.false_ne_true, ← State.slotFrame]
  dsimp only
  rw [if_neg (by simp [hsize])]
  have hgo : ¬ (!s.ethUp (headPort (s.slotHead a)) ||
      bitOf s.ing.port[headPort (s.slotHead a)].paused (framePrio (s.slotFrame a))) = true := by
    rw [hup, hclear]
    exact Bool.false_ne_true
  exact congrArg Host.Outcome.next (if_neg hgo)

/-- A frame that has its blocks leaves with its port's stamp, and its slot is passed. -/
theorem exec_ccFrameTransmit_sent {a : Nat} (hw : MemoriesWf s) (he : ∀ a, s.ins.isEpoch a = false) (h : s.Sends a)
    (hb : (s.welt.claimAll .ing clickerBlocks (blocksOf (s.slotFrame a).length)).2.isSome = true) :
    ∃ u ts, exec .ccFrameTransmit s = Host.Outcome.next u ∧ s.Near ts ∧ StoresOnly s u (stampCells a (s.slotHead a) ts) ∧
      u.ctx.tx = { s.ctx.tx with head := s.ctx.tx.head + 1 } ∧
      u.ing.port[headPort (s.slotHead a)] = { s.ing.port[headPort (s.slotHead a)] with
        tx := if 4 ≤ (headPort (s.slotHead a)).val then oneStep (s.slotFrame a) ts else s.slotFrame a } ∧
      u.ctx.pend.getLsbD 18 = true := by
  obtain ⟨v, w, hv, hw', hrun⟩ := s.throughWelt_granted .ing clickerBlocks _
    (State.sendFrame a (s.slotHead a) (s.slotFrame a) s.ctx.tx) hb
  have h0 : Stored s { s with welt := v } [] := (Stored.refl hw).books hv
  obtain ⟨ts, hts, hst, htx, hport, hpend⟩ :=
    State.sendFrame_spec a (s.slotHead a) (s.slotFrame a) s.ctx.tx h0.wf he
  rw [exec_ccFrameTransmit_sends h, hrun]
  exact ⟨_, ts, rfl, hts, ((h0.trans he hst).books hw').stores, htx, hport, hpend⟩

end

/-! ### The rings' registers (R426, R429, R430) -/

/-- A ring at a new base, of a new size, and empty. -/
def FrameRing.placed (r : FrameRing) (v : Word) : FrameRing :=
  { r with base := BitVec.ofNat 48 (bitsOf v 63 16), lslots := BitVec.ofNat 4 (bitsOf v 3 0), head := 0, tail := 0 }

theorem exec_ctxRingWrite (tx : Bool) (v : Word) (s : State) : exec (.ctxRingWrite tx v) s =
    .next { s with ctx := if tx = true then { s.ctx with tx := s.ctx.tx.placed v } else { s.ctx with rx := s.ctx.rx.placed v } } :=
  rfl

theorem exec_ctxRxidxTailWrite (tail : BitVec 16) (s : State) : exec (.ctxRxidxTailWrite tail) s =
    .next { s with ctx := { s.ctx with rx := { s.ctx.rx with tail := tail } } } := rfl

theorem exec_ctxTxidxTailWrite (tail : BitVec 16) (s : State) : exec (.ctxTxidxTailWrite tail) s =
    .next (if (tail - s.ctx.tx.head).toNat > s.ctx.tx.slots then s
      else { s with ctx := { s.ctx with tx := { s.ctx.tx with tail := tail } } }) := rfl

/-- Settles O47: each clause by the lemma of its command, what is stored by the cells of the writes around which only the
Welt's books change. -/
theorem frameRings : Obligations.FrameRings := by
  intro p frame tx v tail s hw he
  exact ⟨fun h hb => exec_ccFrameReceive_waits h hb, fun h hb hf => exec_ccFrameReceive_full h hb hf,
    fun h => exec_ccFrameReceive_ignored h, fun h hb hf => exec_ccFrameReceive_stored hw he h hb hf,
    exec_ccFrameTransmit_empty, fun h hon hbad => exec_ccFrameTransmit_passed rfl h hon hbad,
    fun h hhead hbody hsize hb hup hclear => exec_ccFrameTransmit_sent hw he ⟨rfl, h, hhead, hbody, hsize, hup, hclear⟩ hb,
    exec_ctxRingWrite tx v s, exec_ctxRxidxTailWrite tail s, exec_ctxTxidxTailWrite tail s⟩

end Sys2Proof.Machine
end

section
/-! The end of a commit (R178, R180, R364, R381, R382): the state it leaves, in which no round is due since a core of the step
has yet to vote, and the settlement of CommitsFinish. -/

namespace Sys2Proof.Machine

/-! ### A core over a commit -/

theorem CoreSt.commitWait_waiting {c : CoreSt} {sd : BitVec 6} (h : c.hold = .commitWait sd) :
    c.commitWait = ({ c with arch := c.arch.setS sd.toNat 0, reg := { c.reg with run := .running } }).advance := by
  unfold CoreSt.commitWait
  rw [h]

/-- A core that is released runs; any other keeps its run state, and of the rest only scalars, address and hold change. -/
theorem CoreSt.commitWait_frame (c : CoreSt) : ∃ a h r,
    c.commitWait = { c with arch := a, hold := h, reg := { c.reg with run := r } } ∧ (r = c.reg.run ∨ r = .running) := by
  unfold CoreSt.commitWait
  split
  · exact ⟨_, _, .running, rfl, .inr rfl⟩
  · exact ⟨c.arch, c.hold, c.reg.run, rfl, .inl rfl⟩

/-- A core in the step after a commit, while it still waits for the decision: its epoch has advanced, and it has not voted. -/
def CoreSt.stepped (c : CoreSt) : CoreSt := ({ c with reg := { c.reg with srepoch := c.reg.srepoch + 1 } }).nextAttempt true

/-- A core once a commit has ended. -/
def CoreSt.committed (c : CoreSt) : CoreSt := c.stepped.commitWait

theorem CoreSt.committed_srepoch (c : CoreSt) : c.committed.reg.srepoch = c.reg.srepoch + 1 := by
  obtain ⟨a, h, r, e, -⟩ := c.stepped.commitWait_frame
  rw [CoreSt.committed, e]
  rfl

/-- A core at STEP.COMMIT has OK in its sd and runs. -/
theorem CoreSt.committed_waiting {c : CoreSt} {sd : BitVec 6} (h : c.hold = .commitWait sd) :
    c.committed.reg.run = .running ∧
      ∀ i, c.committed.arch.sreg i = if i = sd.toNat ∧ sd.toNat ≠ 0 then 0 else c.arch.sreg i := by
  rw [CoreSt.committed, CoreSt.commitWait_waiting (c := c.stepped) h]
  exact ⟨rfl, fun i => c.arch.sreg_setS sd.toNat i 0 sd.isLt⟩

/-- A voter that counts by its own vote has yet to give one in the next attempt. -/
theorem CoreSt.committed_voter {c : CoreSt} (hv : c.votes = true) (hb : c.byState = false) :
    c.committed.votes = true ∧ c.committed.voted = false ∧ c.committed.byState = false := by
  obtain ⟨a, h, r, e, hr⟩ := c.stepped.commitWait_frame
  rw [CoreSt.committed, e]
  obtain rfl | rfl := hr
  · exact ⟨hv, rfl, hb⟩
  · simp_all [CoreSt.votes, CoreSt.byState, CoreSt.stepped, CoreSt.nextAttempt]

/-! ### What a commit's end calls -/

theorem State.compareDigest_frame (s : State) :
    ∃ a b, s.compareDigest = { s with step := { s.step with matched := a, mismatches := b } } := by
  unfold State.compareDigest
  split
  · exact ⟨s.step.matched, s.step.mismatches, rfl⟩
  · dsimp only
    split
    · exact ⟨_, s.step.mismatches, rfl⟩
    · exact ⟨0, _, rfl⟩

theorem State.releaseBatch_frame (s : State) (e : BitVec 32) :
    ∃ l, s.releaseBatch e = { s with ing := { s.ing with slots := l } } := by
  unfold State.releaseBatch
  dsimp only
  split
  · exact ⟨_, rfl⟩
  · exact ⟨s.ing.slots, rfl⟩

/-- An idle loader does not look for a batch to fill. -/
theorem State.refill_idle {s : State} (h : s.ing.state = .idle) : s.refill = s := by
  unfold State.refill
  rw [h]
  rfl

theorem State.allActed_of_none_left {s : State} (h : ∀ k : StackId, (s.stack[k]).decisions = []) : s.allActed = true := by
  unfold State.allActed
  rw [List.all_eq_true]
  intro x hx
  obtain ⟨i, hi, rfl⟩ := List.mem_iff_getElem.mp hx
  rw [Vector.length_toList] at hi
  exact List.isEmpty_iff.mpr (h ⟨i, hi⟩)

/-- The flag contribution is not complete while a voter that counts by its own vote has not voted (R82). -/
theorem State.flagReady_false {s : State} (m : Core) (hv : (s.core m).votes = true) (hn : (s.core m).voted = false)
    (hb : (s.core m).byState = false) : s.flagReady = false := by
  unfold State.flagReady
  rw [List.all_eq_false]
  refine ⟨s.core m, ?_, by simp [hv, hn, hb]⟩
  exact Vector.mem_toList_iff.mpr (Vector.getElem_mem m.isLt)

/-- No round begins before the flag round while the flag contribution is not complete (R82, R357). -/
theorem State.pokeVote_waits {s : State} (hsent : s.step.flagSent = false) (hready : s.flagReady = false) : s.pokeVote = s := by
  unfold State.pokeVote
  simp [hsent, hready]

/-! ### The end of a commit -/

/-- The state a commit leaves: a and b count the digests that matched and did not, l are the slots of the loader's batches. -/
def State.committed (s : State) (a b : Byte) (l : List BatchState) : State :=
  { s with
    cores := s.cores.map CoreSt.committed
    stack := s.stack.map fun k => { k with srepoch := k.srepoch + 1 }
    step := { s.step with matched := a, mismatches := b, attempt := 0, flagSent := false, sealSent := false, sealing := false
                          committing := none }
    ing := { s.ing with slots := l }
    awl := { s.writeReplay.awl with snapValid := s.stack.toList.all fun k => k.table.written.isEmpty } }

section
variable {s : State} {a b : Byte} {l : List BatchState}

theorem State.committed_core (n : Core) : (s.committed a b l).core n = (s.core n).committed := by
  simp [State.committed, State.core]

theorem State.committed_stack (k : StackId) :
    (s.committed a b l).stack[k] = { s.stack[k] with srepoch := (s.stack[k]).srepoch + 1 } := by
  simp [State.committed]

/-- After a commit no round is due where a core of the step counts by its own vote. -/
theorem State.committed_pokeVote (h : ∃ m : Core, (s.core m).votes = true ∧ (s.core m).byState = false) :
    (s.committed a b l).pokeVote = s.committed a b l := by
  obtain ⟨m, hv, hb⟩ := h
  obtain ⟨hv', hn', hb'⟩ := CoreSt.committed_voter hv hb
  refine State.pokeVote_waits rfl (State.flagReady_false m ?_ ?_ ?_) <;> rwa [State.committed_core]

end

/-- The first word of the replay record names the epoch and attempt decided and the result (R382). -/
theorem State.writeReplay_pair (s : State) : s.writeReplay.awl.rplrec[0] =
    BitVec.ofNat 64 (s.voteResult.toNat + s.step.attempt.toNat * 2 ^ 24 + s.epoch.toNat * 2 ^ 32) := by
  change fields [(32, s.epoch.toNat), (24, s.step.attempt.toNat), (0, s.voteResult.toNat)] = _
  refine congrArg (BitVec.ofNat 64) ?_
  simp only [List.foldl]
  omega

theorem exec_commitFinish {s : State} (hon : s.fastOn = true) (hc : s.step.committing = some true)
    (hacted : ∀ k : StackId, (s.stack[k]).decisions = [])
    (hvoter : ∃ m : Core, (s.core m).votes = true ∧ (s.core m).byState = false) (hidle : s.ing.state = .idle) :
    ∃ a b l, exec .commitFinish s = .next (s.committed a b l) := by
  change ∃ a b l, execCommitFinish s = .next (s.committed a b l)
  unfold execCommitFinish
  rw [if_neg (by simp [hon, hc, State.allActed_of_none_left hacted])]
  obtain ⟨a, b, hdigest⟩ := s.compareDigest_frame
  dsimp only
  rw [hdigest]
  generalize hw : ((State.writeReplay _).addEpoch 1).newAttempt 0 true = w
  obtain ⟨l, hbatch⟩ := w.releaseBatch_frame s.epoch
  rw [hbatch, State.refill_idle (by rw [← hw]; exact hidle), ← hw]
  refine ⟨a, b, l, ?_⟩
  rw [← State.committed_pokeVote hvoter]
  refine congrArg (fun t : State => Host.Outcome.next t.pokeVote) ?_
  simp only [State.newAttempt, State.addEpoch, State.writeReplay, Vector.map_map, Vector.toList_map, List.all_map]
  rfl

/-- Settles O28: by the state that the commit's end leaves. -/
theorem commitsFinish : Obligations.CommitsFinish := by
  intro s hon hc hacted hvoter hidle
  obtain ⟨a, b, l, hexec⟩ := exec_commitFinish hon hc hacted hvoter hidle
  refine ⟨_, hexec, rfl, rfl, fun n => ?_, fun k => ?_, fun n sd hsd => ?_, s.writeReplay_pair, rfl, rfl, rfl, rfl⟩
  · rw [State.committed_core, CoreSt.committed_srepoch]
  · rw [State.committed_stack]
    exact ⟨rfl, rfl⟩
  · rw [State.committed_core]
    obtain ⟨hrun, hreg⟩ := CoreSt.committed_waiting hsd
    exact ⟨hrun, fun i _ => hreg i⟩

end Sys2Proof.Machine
end
